-- ==== Sys2Proof/Word.lean ====
section
/-! DEFINITION. The two word types of the CORE: the 16-bit instruction word (00_scope.md R7, ILEN) and the
unsigned data value of XLEN bits (R8, R11). -/

namespace Sys2Proof

/-- An instruction word: exactly 16 bits (30_encoding.md R60). Bit 0 is the least significant bit (00_scope.md R10). -/
abbrev InstrWord := BitVec 16

/-- A data value: a stack slot, an operand, a result or the instruction pointer, an unsigned integer of `xlen` bits
(00_scope.md R11). Its arithmetic wraps modulo 2^xlen. -/
abbrev Word (xlen : Nat) := BitVec xlen

end Sys2Proof
end

