-- ==== Sys2Proof/Config.lean ====
section
/-! DEFINITION. The parameters the source leaves open (00_scope.md R8) as one plain record, and which of them the spec
admits (R8, R9). The default values are in Sys2Proof/Machine/Params.lean. There is no free value on this machine
(93_implementation_defined.md: no behaviour is treated as 'any value'). -/

namespace Sys2Proof

/-- The five ALU operations (30_encoding.md R65). -/
inductive AluOp where
  | and
  | or
  | xor
  | slo
  | slz
  deriving DecidableEq, Repr

/-- How the environment supplies instructions, ENV_FETCH (00_scope.md R8; 70_reset_and_hazards.md R145, R146). -/
inductive EnvFetch where
  /-- Step number `k` executes word `k` of the program (R145, the environment the source describes). -/
  | sequential
  /-- Each step executes the word at position `pc` (R146, the spec's own alternative). -/
  | pcIndexed
  deriving DecidableEq, Repr

/-- OPCODE_MAP (00_scope.md R8, 30_encoding.md R65): the 4-bit number of each operation, held as plain data. -/
structure OpcodeMap where
  and : BitVec 4
  or  : BitVec 4
  xor : BitVec 4
  slo : BitVec 4
  slz : BitVec 4
  deriving DecidableEq, Repr

/-- The five numbers, in the order of R65. -/
def OpcodeMap.codes (m : OpcodeMap) : List (BitVec 4) := [m.and, m.or, m.xor, m.slo, m.slz]

/-- R8 admits "any injective map from the five operations to 0..15". -/
abbrev OpcodeMap.Injective (m : OpcodeMap) : Prop := m.codes.Nodup

/-- The build-time parameters (00_scope.md R8). They are no registers (10_state.md R29). PC_BITS has no field: the
spec fixes PC_BITS = XLEN (R8, R25). -/
structure Config where
  /-- XLEN: width in bits of a slot, an operand, a result and the instruction pointer. -/
  xlen : Nat
  /-- STACK_CAP: number of stack slots. -/
  stackCap : Nat
  /-- SCAN_LEN: number of old slots the stack rebuild scans. -/
  scanLen : Nat
  /-- OPCODE_MAP. -/
  opcodeMap : OpcodeMap
  /-- ENV_FETCH. -/
  envFetch : EnvFetch
  deriving DecidableEq, Repr

/-- The admitted parameter values and their constraints (00_scope.md R8, R9): XLEN at least 3, STACK_CAP at least 8
("any integer >= 8 is well defined"), SCAN_LEN at most min(8, STACK_CAP), OPCODE_MAP injective. -/
abbrev Config.Admitted (c : Config) : Prop :=
  3 ≤ c.xlen ∧ 8 ≤ c.stackCap ∧ c.scanLen ≤ min 8 c.stackCap ∧ c.opcodeMap.Injective

end Sys2Proof
end

