-- ==== Sys2Proof/Machine/Params.lean ====
section
/-! DEFINITION. The default parameter values of 00_scope.md R8 and the other pairs the spec names. The defaults are the
spec's own decisions D1, D2, D3, D4 and D9 (log 2). -/

namespace Sys2Proof

/-- Default OPCODE_MAP: AND=0, OR=1, XOR=2, SLO=3, SLZ=4 (30_encoding.md R65). DESIGN CHOICE of the spec (D4, log 2),
unsafe: the source gives no numbers. -/
def defaultOpcodeMap : OpcodeMap where
  and := 0
  or  := 1
  xor := 2
  slo := 3
  slz := 4

/-- The default configuration (00_scope.md R8): XLEN = 32, STACK_CAP = 16, SCAN_LEN = 8, ENV_FETCH = sequential. DESIGN
CHOICE of the spec (D1, D2, D3, D9, log 2), unsafe. -/
def defaultConfig : Config where
  xlen := 32
  stackCap := 16
  scanLen := 8
  opcodeMap := defaultOpcodeMap
  envFetch := .sequential

/-- The source code's 8-slot pair, STACK_CAP = 8 and SCAN_LEN = 7 (00_scope.md R9, 90_conflicts.md C5). -/
def sourceCodeConfig : Config := { defaultConfig with stackCap := 8, scanLen := 7 }

/-- The admitted pair STACK_CAP = 8 and SCAN_LEN = 8, where StackOverflow is reachable (00_scope.md R9, C5). -/
def fullScanConfig : Config := { defaultConfig with stackCap := 8, scanLen := 8 }

end Sys2Proof
end

