-- ==== Sys2Proof/Machine/State.lean ====
section
/-! DEFINITION. The state of the machine: the CORE's registers (10_state.md R20), the environment's program and step
number (70_reset_and_hazards.md R145), and the build-time parameters (00_scope.md R8); the ways a step can end; reset. -/

namespace Sys2Proof.Machine

/-- The fault latch, a 2-bit status register (10_state.md R27); its codes are in Sys2Proof/Machine/Flags.lean. -/
inductive FaultCode where
  | none
  | invalidOpcode
  | stackOverflow
  | reservedDestination
  deriving DecidableEq, Repr

/-- Everything the spec gives the machine, and what a run of it needs. The parameters stand in the state so that one
model is every admitted machine; no step changes them (log 1). -/
structure State where
  /-- The build-time parameters (00_scope.md R8). The model's own field: they are no registers (10_state.md R29). -/
  cfg : Config
  /-- The stack register file, slot 0 (the top) first (10_state.md R21). Its length is STACK_CAP in every state a run
  reaches. -/
  x : List (Word cfg.xlen)
  /-- The instruction pointer (10_state.md R25). -/
  pc : Word cfg.xlen
  /-- Diagnostic latch of operand A (10_state.md R26). -/
  valA : Word cfg.xlen
  /-- Diagnostic latch of operand B (10_state.md R26). -/
  valB : Word cfg.xlen
  /-- Diagnostic latch of the result (10_state.md R26). -/
  res : Word cfg.xlen
  /-- The fault latch (10_state.md R27). -/
  fault : FaultCode
  /-- The program `P[0 .. N-1]` (20_memory.md R42): the environment's, never written by a step (R51, log 4). -/
  program : List InstrWord
  /-- The number of steps this run has taken: the `k` of 70_reset_and_hazards.md R145 (log 4). -/
  stepNo : Nat
  deriving DecidableEq, Repr

/-- The three faults of 60_exceptions.md R120, with the information R120 records. -/
inductive Fault where
  /-- Raised by the engine on a word whose opcode is not in OPCODE_MAP (R121). Safe: the spec gives no next state. -/
  | invalidOpcode (w : InstrWord)
  /-- Raised by the stack rebuild when it produced more than STACK_CAP entries (R123); carries their number. Safe: the
  spec says it is checked, never truncated. -/
  | stackOverflow (produced : Nat)
  /-- Raised by every instruction whose destination field is the reserved encoding 3 (R122). Safe: D6 errs toward
  refusing what the original may execute (log 7). -/
  | reservedDestination (w : InstrWord)
  deriving DecidableEq, Repr

/-- Why no step is taken. -/
inductive Refusal where
  /-- An arm of `exec` whose instruction has no meaning yet. No arm of this model answers it. Safe. -/
  | notModelled (mnemonic : String)
  /-- Raised by `step`: the program has no word left, so the run has ended (70_reset_and_hazards.md R147, log 5). Safe:
  the spec takes no step here. -/
  | runOver
  /-- Raised by `step`: the fault latch is set, and no further step is taken until reset (10_state.md R27, log 6). Safe:
  the spec takes no step here. -/
  | latched (code : FaultCode)
  deriving DecidableEq, Repr

/-- The launch state of a run on a machine built with the parameters `c`: all zero, fault latch clear (10_state.md R32;
70_reset_and_hazards.md R141), with the environment's program at its first step (R145). -/
def State.launch (c : Config) (p : List InstrWord) : State where
  cfg := c
  x := List.replicate c.stackCap 0
  pc := 0
  valA := 0
  valB := 0
  res := 0
  fault := .none
  program := p
  stepNo := 0

/-- The machine right after reset (10_state.md R32), built with the default parameters (00_scope.md R8, log 2). The spec
gives no program, so none stands in it (log 5). -/
def State.reset : State := State.launch defaultConfig []

end Sys2Proof.Machine
end

