-- ==== Sys2Proof/Machine/Flags.lean ====
section
/-! DEFINITION. The machine has no flags or condition codes (10_state.md R28). Its only status register is the fault
latch (R27): its 2-bit codes and the one operation that writes it. -/

namespace Sys2Proof.Machine

/-- The code in the fault latch (60_exceptions.md R120). -/
def FaultCode.bits : FaultCode → BitVec 2
  | .none                => 0
  | .invalidOpcode       => 1
  | .stackOverflow       => 2
  | .reservedDestination => 3

/-- The code of a fault (60_exceptions.md R120). -/
def Fault.code : Fault → FaultCode
  | .invalidOpcode _       => .invalidOpcode
  | .stackOverflow _       => .stackOverflow
  | .reservedDestination _ => .reservedDestination

/-- A faulting step in the hardware rendering: the code goes into the latch and everything else holds (10_state.md R27,
60_exceptions.md R125). -/
def State.latchFault (s : State) (f : Fault) : State := { s with fault := f.code }

end Sys2Proof.Machine
end

