-- ==== Sys2Proof/Syntax.lean ====
section
/-! DEFINITION. The instruction set as syntax: one constructor per row of spec/opcode_table.json, each with the one
operand shape of 30_encoding.md R61 and R62: a destination and two operand selectors. -/

namespace Sys2Proof

/-- The destination field (30_encoding.md R66): DROP = 00, PUSH-STACK = 01, WRITE-PC = 10, and the reserved encoding 11,
which decodes like any other (R64) and on which the engine faults (R71). -/
inductive Dest where
  | drop
  | push
  | writePc
  | reserved
  deriving DecidableEq, Repr

/-- An operand selector (30_encoding.md R62). Its immediate flag is the choice of constructor. `consume` is bit 3, kept
beside an immediate too, where it is decoded and ignored (R64, R69). The number is the 3-bit immediate (R67; C1: three
bits, not four) or the 3-bit stack index (R68). -/
inductive Selector where
  | imm (consume : Bool) (value : BitVec 3)
  | slot (consume : Bool) (index : BitVec 3)
  deriving DecidableEq, Repr

/-- The instructions: one constructor per row of the opcode table. `a` and `b` are operand selectors A and B. -/
inductive Instr where
  /-- AND, 41_bitwise.md R100. -/
  | and (dest : Dest) (a b : Selector)
  /-- OR, 41_bitwise.md R101. -/
  | or (dest : Dest) (a b : Selector)
  /-- XOR, 41_bitwise.md R102. -/
  | xor (dest : Dest) (a b : Selector)
  /-- SLO, SHIFT-LEFT-FILL-ONES, 42_shift.md R110. -/
  | slo (dest : Dest) (a b : Selector)
  /-- SLZ, SHIFT-LEFT-FILL-ZEROS, 42_shift.md R111. -/
  | slz (dest : Dest) (a b : Selector)
  deriving DecidableEq, Repr

/-- The operation of an instruction. -/
def Instr.op : Instr → AluOp
  | .and _ _ _ => .and
  | .or _ _ _  => .or
  | .xor _ _ _ => .xor
  | .slo _ _ _ => .slo
  | .slz _ _ _ => .slz

/-- The destination of an instruction. -/
def Instr.dest : Instr → Dest
  | .and d _ _ => d
  | .or d _ _  => d
  | .xor d _ _ => d
  | .slo d _ _ => d
  | .slz d _ _ => d

/-- Operand selector A. -/
def Instr.a : Instr → Selector
  | .and _ a _ => a
  | .or _ a _  => a
  | .xor _ a _ => a
  | .slo _ a _ => a
  | .slz _ a _ => a

/-- Operand selector B. -/
def Instr.b : Instr → Selector
  | .and _ _ b => b
  | .or _ _ b  => b
  | .xor _ _ b => b
  | .slo _ _ b => b
  | .slz _ _ b => b

end Sys2Proof
end

