-- ==== Sys2Proof/WellFormed.lean ====
section
/-! DEFINITION. Which instructions are legal (30_encoding.md R72): every operation with one of the three destination
kinds of R66, whatever its selectors. Every width check is already in the types of Sys2Proof/Syntax.lean. -/

namespace Sys2Proof

/-- The destination is one of the three kinds; the reserved encoding has no meaning (30_encoding.md R66, R71). -/
def Dest.isKind : Dest → Bool
  | .drop | .push | .writePc => true
  | .reserved => false

/-- A legal instruction (30_encoding.md R72). -/
def Instr.wellFormed (i : Instr) : Bool := i.dest.isKind

end Sys2Proof
end

