-- ==== Sys2Proof/Decode.lean ====
section
/-! DEFINITION. The Instruction Decoder (30_encoding.md R61 to R66), total on every 16-bit word, the reading of its
fields as an instruction under an OPCODE_MAP, which rejects an undefined opcode by name (R70), the encoder (R73), and
the abstract assembler and pseudo-instructions of R74 and R75. -/

namespace Sys2Proof

/-- The number of an operation (30_encoding.md R65). -/
def OpcodeMap.code (m : OpcodeMap) : AluOp → BitVec 4
  | .and => m.and
  | .or  => m.or
  | .xor => m.xor
  | .slo => m.slo
  | .slz => m.slz

/-- The operation a number stands for, none for an undefined opcode (30_encoding.md R65, R70). -/
def OpcodeMap.lookup (m : OpcodeMap) (c : BitVec 4) : Option AluOp :=
  if c = m.and then some .and
  else if c = m.or then some .or
  else if c = m.xor then some .xor
  else if c = m.slo then some .slo
  else if c = m.slz then some .slz
  else none

/-- The numbers of the destination field (30_encoding.md R66), given by the source. -/
def Dest.bits : Dest → BitVec 2
  | .drop     => 0b00
  | .push     => 0b01
  | .writePc  => 0b10
  | .reserved => 0b11

/-- The destination a 2-bit field stands for (30_encoding.md R66). -/
def Dest.ofBits (v : BitVec 2) : Dest :=
  if v = 0b00 then .drop
  else if v = 0b01 then .push
  else if v = 0b10 then .writePc
  else .reserved

/-- The eight leaf fields of an instruction word (30_encoding.md R63). -/
structure Fields where
  opcode : BitVec 4
  dest   : BitVec 2
  bImm   : Bool
  bCons  : Bool
  bVal   : BitVec 3
  aImm   : Bool
  aCons  : Bool
  aVal   : BitVec 3
  deriving DecidableEq, Repr

/-- The decoder: total, pure, no fallible path (30_encoding.md R63, R64). -/
def decodeFields (w : InstrWord) : Fields where
  opcode := w.extractLsb' 12 4
  dest   := w.extractLsb' 10 2
  bImm   := w.getLsbD 9
  bCons  := w.getLsbD 8
  bVal   := w.extractLsb' 5 3
  aImm   := w.getLsbD 4
  aCons  := w.getLsbD 3
  aVal   := w.extractLsb' 0 3

/-- A flag as the single bit of an instruction word. -/
def flagBit (v : Bool) : InstrWord := (BitVec.ofBool v).setWidth 16

/-- The encoding function of 30_encoding.md R73. -/
def encodeFields (f : Fields) : InstrWord :=
  (f.opcode.setWidth 16 <<< 12) ||| (f.dest.setWidth 16 <<< 10)
    ||| (flagBit f.bImm <<< 9) ||| (flagBit f.bCons <<< 8) ||| (f.bVal.setWidth 16 <<< 5)
    ||| (flagBit f.aImm <<< 4) ||| (flagBit f.aCons <<< 3) ||| f.aVal.setWidth 16

/-- An operand selector from its three fields (30_encoding.md R62). -/
def Selector.ofFields (immFlag consume : Bool) (v : BitVec 3) : Selector :=
  if immFlag then .imm consume v else .slot consume v

/-- The immediate flag of a selector. -/
def Selector.immFlag : Selector → Bool
  | .imm _ _  => true
  | .slot _ _ => false

/-- The consume flag of a selector, bit 3, whatever the immediate flag. -/
def Selector.consFlag : Selector → Bool
  | .imm c _  => c
  | .slot c _ => c

/-- The three low bits of a selector. -/
def Selector.number : Selector → BitVec 3
  | .imm _ v  => v
  | .slot _ k => k

/-- The instruction of an operation, a destination and two selectors. -/
def Instr.mk (op : AluOp) (d : Dest) (a b : Selector) : Instr :=
  match op with
  | .and => .and d a b
  | .or  => .or d a b
  | .xor => .xor d a b
  | .slo => .slo d a b
  | .slz => .slz d a b

/-- Why a word is no instruction: only an undefined opcode (30_encoding.md R70, R72). -/
inductive DecodeReject where
  | invalidOpcode (w : InstrWord)
  deriving DecidableEq, Repr

/-- The instruction a word stands for under the map `m`. A word is rejected only for its opcode field; the destination
and the selectors never reject it (30_encoding.md R64, R70, R71, R72). -/
def decode (m : OpcodeMap) (w : InstrWord) : Except DecodeReject Instr :=
  let f := decodeFields w
  match m.lookup f.opcode with
  | none    => .error (.invalidOpcode w)
  | some op => .ok (Instr.mk op (Dest.ofBits f.dest)
      (Selector.ofFields f.aImm f.aCons f.aVal) (Selector.ofFields f.bImm f.bCons f.bVal))

/-- The fields of an instruction under the map `m`. -/
def Instr.fields (m : OpcodeMap) (i : Instr) : Fields where
  opcode := m.code i.op
  dest   := i.dest.bits
  bImm   := i.b.immFlag
  bCons  := i.b.consFlag
  bVal   := i.b.number
  aImm   := i.a.immFlag
  aCons  := i.a.consFlag
  aVal   := i.a.number

/-- The word of an instruction under the map `m` (30_encoding.md R73). -/
def encode (m : OpcodeMap) (i : Instr) : InstrWord := encodeFields (i.fields m)

/-- The instruction the decoder reads from a word numbered as spec/opcode_table.json numbers it, under the default
OPCODE_MAP under which the table is written. Every instruction is one 16-bit word, so there are no later words. -/
def decodeTableWord (nbits w : Nat) : Option Instr :=
  match decode defaultConfig.opcodeMap (BitVec.ofNat 16 (w % 2 ^ nbits)) with
  | .ok i    => some i
  | .error _ => none

/-- An operand as R74 writes it: `#n`, `sk` or `sk!`. -/
inductive AsmOperand where
  | imm (n : BitVec 3)
  | slot (k : BitVec 3)
  | consumed (k : BitVec 3)
  deriving DecidableEq, Repr

/-- A destination as R74 writes it. -/
inductive AsmDest where
  | drop
  | push
  | pc
  deriving DecidableEq, Repr

/-- A line of the assembler of 30_encoding.md R74: mnemonic, destination, A, B. -/
structure Asm where
  op   : AluOp
  dest : AsmDest
  a    : AsmOperand
  b    : AsmOperand
  deriving DecidableEq, Repr

/-- The selector of an operand (30_encoding.md R74): "an immediate is always assembled with its consume bit 0". -/
def AsmOperand.selector : AsmOperand → Selector
  | .imm n      => .imm false n
  | .slot k     => .slot false k
  | .consumed k => .slot true k

/-- The destination of an assembler line (30_encoding.md R74). -/
def AsmDest.dest : AsmDest → Dest
  | .drop => .drop
  | .push => .push
  | .pc   => .writePc

/-- The instruction of an assembler line. -/
def Asm.instr (l : Asm) : Instr := Instr.mk l.op l.dest.dest l.a.selector l.b.selector

/-- PUSHI n (30_encoding.md R75). -/
def Asm.pushi (n : BitVec 3) : Asm := ⟨.or, .push, .imm n, .imm 0⟩

/-- DUP k (30_encoding.md R75). -/
def Asm.dup (k : BitVec 3) : Asm := ⟨.or, .push, .slot k, .slot k⟩

/-- POP (30_encoding.md R75). -/
def Asm.pop : Asm := ⟨.and, .drop, .consumed 0, .consumed 0⟩

/-- JMPI n (30_encoding.md R75). -/
def Asm.jmpi (n : BitVec 3) : Asm := ⟨.or, .pc, .imm n, .imm 0⟩

/-- JMPS (30_encoding.md R75). -/
def Asm.jmps : Asm := ⟨.or, .pc, .consumed 0, .consumed 0⟩

/-- NOPI (30_encoding.md R75). -/
def Asm.nopi : Asm := ⟨.and, .drop, .imm 0, .imm 0⟩

end Sys2Proof
end

