-- ==== Sys2Proof/Machine/Operands.lean ====
section
/-! DEFINITION. Operand selection (40_datapath.md R82, R83) and the consumed set (R88). -/

namespace Sys2Proof.Machine

/-- The value of stack slot `k` (00_scope.md R12). A slot beyond the end of the list exists in no state a run reaches
(`k` < STACK_CAP); it reads as zero (log 17). -/
def readSlot {n : Nat} (x : List (Word n)) (k : Nat) : Word n := x.getD k 0

/-- The operand a selector stands for: the zero-extended 3-bit immediate (30_encoding.md R67) or the whole stack slot
(R68). The consume flag does not influence it (40_datapath.md R82, R83). -/
def operandValue {n : Nat} (x : List (Word n)) : Selector → Word n
  | .imm _ v  => v.setWidth n
  | .slot _ k => readSlot x k.toNat

/-- The slot an effective consume removes: consume flag set and immediate flag clear (30_encoding.md R69). -/
def consumedSlot : Selector → List Nat
  | .imm _ _      => []
  | .slot true k  => [k.toNat]
  | .slot false _ => []

/-- The consumed set `K` (40_datapath.md R88), as a list without repeats. -/
def consumedSet (a b : Selector) : List Nat :=
  consumedSlot a ++ (consumedSlot b).filter (fun k => !(consumedSlot a).contains k)

end Sys2Proof.Machine
end

