-- ==== Sys2Proof/Machine/Ops.lean ====
section
/-! DEFINITION. The shared operations of a step (40_datapath.md R81): the pc multiplexer (R87), the stack rebuild (R89 to
R91), the latches (R92), raising a fault (60_exceptions.md R125), reset (70_reset_and_hazards.md R141) and instruction
supply (R145, R146). -/

namespace Sys2Proof.Machine

/-- The next-state multiplexer of `pc` (40_datapath.md R87): the result for WRITE-PC, else `pc + 1`, which wraps modulo
2^XLEN (D8, log 9). -/
def nextPc {n : Nat} (d : Dest) (result pc : Word n) : Word n :=
  if d = .writePc then result else pc + 1

/-- The old slots that survive a step, in their old order: indices 0 to SCAN_LEN-1 not in `K` (40_datapath.md R89). Slots
at SCAN_LEN and above are not copied (D3, log 10). -/
def survivors {n : Nat} (scanLen : Nat) (consumed : List Nat) (x : List (Word n)) : List (Word n) :=
  ((List.range scanLen).filter (fun i => !consumed.contains i)).map (readSlot x)

/-- The push write port: the result first for PUSH-STACK, nothing otherwise (40_datapath.md R86, R89). -/
def pushed {n : Nat} (d : Dest) (result : Word n) : List (Word n) :=
  if d = .push then [result] else []

/-- The sequence `out` that the rebuild produces (40_datapath.md R89). -/
def produced {n : Nat} (scanLen : Nat) (d : Dest) (a b : Selector) (result : Word n) (x : List (Word n)) :
    List (Word n) :=
  pushed d result ++ survivors scanLen (consumedSet a b) x

/-- Placement and zero fill (40_datapath.md R91). -/
def zeroFill {n : Nat} (cap : Nat) (out : List (Word n)) : List (Word n) :=
  out ++ List.replicate (cap - out.length) 0

/-- Fault entry (60_exceptions.md R125): the step ends with the fault and no new state. Nothing is saved, no mode
changes, control goes nowhere. There is no return from a fault (R126): only reset starts a new run, which is
`State.restart` below; the latch of the hardware rendering is `State.latchFault`. -/
def raiseFault (f : Fault) : Host.Outcome State Fault Refusal := .fault f

/-- The new state of a successful step (40_datapath.md R81 steps 3 to 5): `pc` by R87, the stack by R91, the latches by
R92. Nothing else changes. -/
def State.commit (s : State) (d : Dest) (valA valB result : Word s.cfg.xlen) (out : List (Word s.cfg.xlen)) : State :=
  { s with
    x := zeroFill s.cfg.stackCap out
    pc := nextPc d result s.pc
    valA := valA
    valB := valB
    res := result }

/-- The part of a step that the five instructions share (40_datapath.md R81), for the instruction word `w`, the
destination, the selectors and the ALU function. Every read is of the old state. The reserved destination faults before
the overflow check (60_exceptions.md R124). -/
def runAlu (s : State) (w : InstrWord) (d : Dest) (a b : Selector)
    (alu : Word s.cfg.xlen → Word s.cfg.xlen → Word s.cfg.xlen) : Host.Outcome State Fault Refusal :=
  let valueA := operandValue s.x a
  let valueB := operandValue s.x b
  let result := alu valueA valueB
  let out := produced s.cfg.scanLen d a b result s.x
  if d = .reserved then raiseFault (.reservedDestination w)
  else if s.cfg.stackCap < out.length then raiseFault (.stackOverflow out.length)
  else .next (s.commit d valueA valueB result out)

/-- The word the environment supplies for the next step, none when the run is over: word `k` at step `k`
(70_reset_and_hazards.md R145), or the word at position `pc` (R146). -/
def State.fetch (s : State) : Option InstrWord :=
  match s.cfg.envFetch with
  | .sequential => s.program[s.stepNo]?
  | .pcIndexed  => s.program[s.pc.toNat]?

/-- The step number moves on after a successful step (70_reset_and_hazards.md R145). -/
def State.countStep (s : State) : State := { s with stepNo := s.stepNo + 1 }

/-- Reset (70_reset_and_hazards.md R141): every register takes its reset value, and a new run of the same program on the
same machine begins (60_exceptions.md R127). -/
def State.restart (s : State) : State := State.launch s.cfg s.program

end Sys2Proof.Machine
end

