-- ==== Sys2Proof/Machine/Bitwise.lean ====
section
/-! DEFINITION. The bitwise family AND, OR, XOR (41_bitwise.md). -/

namespace Sys2Proof.Machine

/-- `result[i] = valueA[i] AND valueB[i]` (41_bitwise.md R100). -/
def aluAnd {n : Nat} (valueA valueB : Word n) : Word n := valueA &&& valueB

/-- `result[i] = valueA[i] OR valueB[i]` (41_bitwise.md R101). -/
def aluOr {n : Nat} (valueA valueB : Word n) : Word n := valueA ||| valueB

/-- `result[i] = valueA[i] XOR valueB[i]` (41_bitwise.md R102). -/
def aluXor {n : Nat} (valueA valueB : Word n) : Word n := valueA ^^^ valueB

/-- AND (41_bitwise.md R100). -/
def execAnd (d : Dest) (a b : Selector) (s : State) : Host.Outcome State Fault Refusal :=
  runAlu s (encode s.cfg.opcodeMap (.and d a b)) d a b aluAnd

/-- OR (41_bitwise.md R101). -/
def execOr (d : Dest) (a b : Selector) (s : State) : Host.Outcome State Fault Refusal :=
  runAlu s (encode s.cfg.opcodeMap (.or d a b)) d a b aluOr

/-- XOR (41_bitwise.md R102). -/
def execXor (d : Dest) (a b : Selector) (s : State) : Host.Outcome State Fault Refusal :=
  runAlu s (encode s.cfg.opcodeMap (.xor d a b)) d a b aluXor

end Sys2Proof.Machine
end

