-- ==== Sys2Proof/Machine/Shift.lean ====
section
/-! DEFINITION. The shift family SLO, SLZ (42_shift.md). The amount is the whole unsigned value of operand B, never
masked (R112). -/

namespace Sys2Proof.Machine

/-- `((valueA + 1) << valueB) - 1` on integers, reduced once (42_shift.md R110). At an amount of XLEN or more that value
is all ones (R112, D7, log 8), written so that no huge power is computed. -/
def aluSlo {n : Nat} (valueA valueB : Word n) : Word n :=
  if valueB.toNat < n then BitVec.ofNat n ((valueA.toNat + 1) * 2 ^ valueB.toNat - 1)
  else BitVec.allOnes n

/-- `valueA << valueB` on integers, reduced once (42_shift.md R111). At an amount of XLEN or more that value is zero
(R112, D7, log 8). -/
def aluSlz {n : Nat} (valueA valueB : Word n) : Word n :=
  if valueB.toNat < n then BitVec.ofNat n (valueA.toNat * 2 ^ valueB.toNat)
  else 0

/-- SLO, SHIFT-LEFT-FILL-ONES (42_shift.md R110). -/
def execSlo (d : Dest) (a b : Selector) (s : State) : Host.Outcome State Fault Refusal :=
  runAlu s (encode s.cfg.opcodeMap (.slo d a b)) d a b aluSlo

/-- SLZ, SHIFT-LEFT-FILL-ZEROS (42_shift.md R111). -/
def execSlz (d : Dest) (a b : Selector) (s : State) : Host.Outcome State Fault Refusal :=
  runAlu s (encode s.cfg.opcodeMap (.slz d a b)) d a b aluSlz

end Sys2Proof.Machine
end

