-- ==== Sys2Proof/Machine/Dispatch.lean ====
section
/-! DEFINITION. The ALU dispatch of 40_datapath.md R84: one arm per constructor of Instr. -/

namespace Sys2Proof.Machine

def exec (i : Instr) (s : State) : Host.Outcome State Fault Refusal :=
  match i with
  -- the bitwise family, 41_bitwise.md
  | .and d a b => Sys2Proof.Machine.execAnd d a b s
  | .or d a b => Sys2Proof.Machine.execOr d a b s
  | .xor d a b => Sys2Proof.Machine.execXor d a b s
  -- the shift family, 42_shift.md
  | .slo d a b => Sys2Proof.Machine.execSlo d a b s
  | .slz d a b => Sys2Proof.Machine.execSlz d a b s

end Sys2Proof.Machine
end

