-- ==== Sys2Proof/Machine/Engine.lean ====
section
/-! DEFINITION. The CORE's one operation `step(state, instruction) -> newState | Fault` on a raw word (40_datapath.md R80,
R81), and the step a driver takes with it. -/

namespace Sys2Proof.Machine

/-- `step(s, w)` of 40_datapath.md R81: decode, then InvalidOpcode on an undefined opcode (60_exceptions.md R121), else
the instruction's meaning. -/
def engine (w : InstrWord) (s : State) : Host.Outcome State Fault Refusal :=
  match decode s.cfg.opcodeMap w with
  | .error (.invalidOpcode w') => raiseFault (.invalidOpcode w')
  | .ok i => exec i s

/-- One step of a run with the word `w`: the engine, then the step number moves on (70_reset_and_hazards.md R145). -/
def feedWord (w : InstrWord) (s : State) : Host.Outcome State Fault Refusal :=
  match engine w s with
  | .next t    => .next t.countStep
  | .fault f   => .fault f
  | .refused r => .refused r

/-- One step of a run: no step while the fault latch is set (10_state.md R27), none when the program has no word left
(70_reset_and_hazards.md R147), else the word the environment supplies (R145, R146). -/
def runStep (s : State) : Host.Outcome State Fault Refusal :=
  if s.fault ≠ .none then .refused (.latched s.fault)
  else
    match s.fetch with
    | none   => .refused .runOver
    | some w => feedWord w s

/-- The list `p` with `w` at position `k`; positions below `k` that `p` lacks are filled with zero words. -/
def placeWord (p : List InstrWord) (k : Nat) (w : InstrWord) : List InstrWord :=
  p.take k ++ List.replicate (k - p.length) 0 ++ w :: p.drop (k + 1)

/-- The position in the program from which the next step takes its word (70_reset_and_hazards.md R145, R146). -/
def State.fetchPosition (s : State) : Nat :=
  match s.cfg.envFetch with
  | .sequential => s.stepNo
  | .pcIndexed  => s.pc.toNat

end Sys2Proof.Machine
end

