-- ==== Sys2Proof/Machine/Step.lean ====
section
/-! DEFINITION. The machine's step, and the loading of one instruction where the next step takes its word. -/

namespace Sys2Proof.Machine

/-- One step of a run (70_reset_and_hazards.md R145 to R147). -/
def step (s : State) : Host.Outcome State Fault Refusal := runStep s

/-- `s` with the word `w` where the next step takes its word, and the fault latch clear so that it takes one (log 5). -/
def State.withFetchWord (s : State) (nbits w : Nat) : State :=
  { s with
    program := placeWord s.program s.fetchPosition (BitVec.ofNat 16 (w % 2 ^ nbits))
    fault := .none }

end Sys2Proof.Machine
end

