-- ==== Sys2Proof/Machine/Clock.lean ====
section
/-! DEFINITION. The hardware rendering (70_reset_and_hazards.md R140, R141, R143; decisions D10, D11, D13): the ports, one
active clock edge, and the driver that clocks the CORE through a program. -/

namespace Sys2Proof.Machine

/-- The input ports sampled on an active edge of `clk` (70_reset_and_hazards.md R140). -/
structure Ports where
  rst   : Bool
  en    : Bool
  instr : InstrWord
  deriving DecidableEq, Repr

/-- The output ports (70_reset_and_hazards.md R140) of a machine of width `xlen`. -/
structure OutPorts (xlen : Nat) where
  pc    : Word xlen
  x     : List (Word xlen)
  valA  : Word xlen
  valB  : Word xlen
  res   : Word xlen
  fault : BitVec 2
  deriving DecidableEq, Repr

/-- What the environment reads after any step (70_reset_and_hazards.md R140, 60_exceptions.md R132). -/
def State.outPorts (s : State) : OutPorts s.cfg.xlen where
  pc    := s.pc
  x     := s.x
  valA  := s.valA
  valB  := s.valB
  res   := s.res
  fault := s.fault.bits

/-- One active clock edge: reset whatever the other ports are (R141); else, with `en` set and no fault latched, one step
of the engine, or its fault code into the latch; else nothing changes (R143). The step number counts the steps taken. -/
def clockEdge (p : Ports) (s : State) : State :=
  if p.rst then s.restart
  else if p.en && s.fault == .none then
    match feedWord p.instr s with
    | .next t    => t
    | .fault f   => s.latchFault f
    | .refused _ => s
  else s

/-- The ports while the CORE is not stepped: "in the hardware rendering `en` stays 0" (70_reset_and_hazards.md R147). The
spec gives no value of `instr` there: 0 is the model's DESIGN CHOICE (log 15), and no state depends on it. -/
def idlePorts : Ports := ⟨false, false, 0⟩

/-- The ports as the driver of 70_reset_and_hazards.md R145 to R147 sets them: the next word with `en` set; the idle ports
once the run is over, be it because no word is left or because a fault ended it (R147). -/
def State.driverPorts (s : State) : Ports :=
  if s.fault = .none then
    match s.fetch with
    | some w => ⟨false, true, w⟩
    | none   => idlePorts
  else idlePorts

/-- One clock edge of the CORE under that driver. -/
def tick (s : State) : State := clockEdge s.driverPorts s

end Sys2Proof.Machine
end

