-- ==== Sys2Proof/Safety.lean ====
section
/-! DEFINITION. The terms in which claims about the machine are stated: well-formed states and their invariant, when an
instruction completes, the ALU formulas, the closed form of the new stack (40_datapath.md R93), the step of R81 written
out as pseudocode on the raw word, and the comparisons of states that the isolation claims use. The machine itself uses
none of them. -/

namespace Sys2Proof

/-- A word with a defined opcode and one of the three destination kinds (30_encoding.md R72). -/
def LegalWord (m : OpcodeMap) (w : InstrWord) : Prop := ∃ i, decode m w = .ok i ∧ i.wellFormed = true

/-- The ALU formulas of 41_bitwise.md R100 to R102 and 42_shift.md R110, R111: computed on integers, reduced once modulo
2^n (00_scope.md R11), for every shift amount. -/
def AluOp.formula {n : Nat} : AluOp → Word n → Word n → Word n
  | .and, a, b => a &&& b
  | .or,  a, b => a ||| b
  | .xor, a, b => a ^^^ b
  | .slo, a, b => BitVec.ofNat n ((a.toNat + 1) * 2 ^ b.toNat - 1)
  | .slz, a, b => BitVec.ofNat n (a.toNat * 2 ^ b.toNat)

namespace Machine

/-- A state of an admitted machine whose stack has exactly STACK_CAP slots (10_state.md R21, 00_scope.md R9). -/
abbrev State.Wf (s : State) : Prop := s.cfg.Admitted ∧ s.x.length = s.cfg.stackCap

/-- Every slot at index SCAN_LEN + 1 and above holds zero (10_state.md R24). -/
abbrev State.DeepSlotsZero (s : State) : Prop := ∀ j < s.x.length, s.cfg.scanLen < j → readSlot s.x j = 0

/-- The invariant of every run: well formed, and nothing above the reach of the rebuild (10_state.md R21, R24). -/
abbrev State.Inv (s : State) : Prop := s.Wf ∧ s.DeepSlotsZero

/-- Exactly when the rebuild of a legal instruction overflows (40_datapath.md R90): SCAN_LEN = STACK_CAP, the destination
is PUSH-STACK, and nothing inside the scan range is consumed. -/
abbrev Overflows (c : Config) (d : Dest) (a b : Selector) : Prop :=
  c.scanLen = c.stackCap ∧ d = .push ∧ ∀ k ∈ consumedSet a b, c.scanLen ≤ k

/-- The consumed indices inside the scan range, `Kp` of 40_datapath.md R93. -/
def consumedInScan (scanLen : Nat) (a b : Selector) : List Nat := (consumedSet a b).filter (· < scanLen)

/-- `p` of 40_datapath.md R90 and R93. -/
def pushCount (d : Dest) : Nat := if d = .push then 1 else 0

/-- `below(i)` of 40_datapath.md R93: how many consumed indices inside the scan range are smaller than `i`. -/
def below (scanLen : Nat) (a b : Selector) (i : Nat) : Nat := ((consumedInScan scanLen a b).filter (· < i)).length

/-- `len(out)` by the formula of 40_datapath.md R90. -/
def producedLength (scanLen : Nat) (d : Dest) (a b : Selector) : Nat :=
  pushCount d + scanLen - (consumedInScan scanLen a b).length

/-- The closed form of the new stack `x'` (40_datapath.md R93): its length is STACK_CAP, a pushed result is on top, the
old slot `i` of the scan range that is not consumed stands at `p + i - below(i)`, and every other slot is zero. -/
structure Rebuilt (c : Config) (d : Dest) (a b : Selector) (result : Word c.xlen) (x x' : List (Word c.xlen)) :
    Prop where
  length : x'.length = c.stackCap
  top    : d = .push → readSlot x' 0 = result
  kept   : ∀ i < c.scanLen, i ∉ consumedInScan c.scanLen a b →
    readSlot x' (pushCount d + i - below c.scanLen a b i) = readSlot x i
  rest   : ∀ j < c.stackCap, (d = .push → j ≠ 0) →
    (∀ i < c.scanLen, i ∉ consumedInScan c.scanLen a b → j ≠ pushCount d + i - below c.scanLen a b i) →
    readSlot x' j = 0

/-- The state a successful step leaves, given its result and its new stack (40_datapath.md R87, R92): everything not named
here is unchanged. -/
def State.after (s : State) (d : Dest) (a b : Selector) (result : Word s.cfg.xlen) (x' : List (Word s.cfg.xlen)) :
    State :=
  { s with
    x := x'
    pc := if d = .writePc then result else s.pc + 1
    valA := operandValue s.x a
    valB := operandValue s.x b
    res := result }

/-- The scan loop of 40_datapath.md R89, line for line: `out` starts as `start`, and each index 0 to SCAN_LEN-1 that is
not consumed appends its old slot. -/
def scanLoop {n : Nat} (scanLen : Nat) (consumed : Nat → Bool) (x start : List (Word n)) : List (Word n) :=
  (List.range scanLen).foldl (fun out i => if consumed i then out else out ++ [x.getD i 0]) start

/-- A field of a word by mask and shift (30_encoding.md R63). -/
def maskShift (w : InstrWord) (mask shift : Nat) : Nat := (w.toNat &&& mask) >>> shift

/-- The operation whose number is `opcode`, tried in the order of 30_encoding.md R65. -/
def opNumbered (m : OpcodeMap) (opcode : Nat) : Option AluOp :=
  [AluOp.and, .or, .xor, .slo, .slz].find? (fun op => (m.code op).toNat == opcode)

/-- `step(s, w)` as 40_datapath.md R81 writes it, on the raw bits of the word: no syntax, no decoder, no shared operation
of the machine. -/
def pseudocodeStep (w : InstrWord) (s : State) : Host.Outcome State Fault Refusal :=
  let opcode := maskShift w 0xF000 12
  let dest   := maskShift w 0x0C00 10
  let bImm   := maskShift w 0x0200 9
  let bCons  := maskShift w 0x0100 8
  let bVal   := maskShift w 0x00E0 5
  let aImm   := maskShift w 0x0010 4
  let aCons  := maskShift w 0x0008 3
  let aVal   := maskShift w 0x0007 0
  let valueA : Word s.cfg.xlen := if aImm = 1 then BitVec.ofNat s.cfg.xlen aVal else s.x.getD aVal 0
  let valueB : Word s.cfg.xlen := if bImm = 1 then BitVec.ofNat s.cfg.xlen bVal else s.x.getD bVal 0
  match opNumbered s.cfg.opcodeMap opcode with
  | none    => .fault (.invalidOpcode w)
  | some op =>
    let result := op.formula valueA valueB
    if dest = 3 then .fault (.reservedDestination w)
    else
      let pc' := if dest = 2 then result else BitVec.ofNat s.cfg.xlen ((s.pc.toNat + 1) % 2 ^ s.cfg.xlen)
      let inK := fun i => (aImm == 0 && aCons == 1 && aVal == i) || (bImm == 0 && bCons == 1 && bVal == i)
      let out := scanLoop s.cfg.scanLen inK s.x (if dest = 1 then [result] else [])
      if s.cfg.stackCap < out.length then .fault (.stackOverflow out.length)
      else .next { s with
        x := (List.range s.cfg.stackCap).map (fun j => if j < out.length then out.getD j 0 else 0)
        pc := pc'
        valA := valueA
        valB := valueB
        res := result }

/-- An outcome with its next state changed by `f`. -/
def mapNext (f : State → State) : Host.Outcome State Fault Refusal → Host.Outcome State Fault Refusal
  | .next t    => .next (f t)
  | .fault e   => .fault e
  | .refused r => .refused r

/-- A state without what only the instruction pointer shows. -/
def State.forgetPc (s : State) : State := { s with pc := 0 }

/-- A state without what only the diagnostic latches show. -/
def State.forgetLatches (s : State) : State := { s with valA := 0, valB := 0, res := 0 }

/-- A state with the two operand latches exchanged. -/
def State.swapLatches (s : State) : State := { s with valA := s.valB, valB := s.valA }

/-- `n` clock edges under the driver (70_reset_and_hazards.md R143, R145). -/
def ticks : Nat → State → State
  | 0, s     => s
  | n + 1, s => ticks n (tick s)

/-- `n` steps of a run. -/
abbrev runSteps (n : Nat) (s : State) : Host.Outcome State Fault Refusal := Host.Core.run Sys2Proof.core n s

end Machine

end Sys2Proof
end

