-- ==== Sys2Proof/Certificates/Slice0/Obligations.lean ====
section
/-! DEFINITION. The statements for the provers. Each docstring names the rule of spec/ it comes from and, where a clause
rests on a decision of the spec or of the model, the log entry. -/

open Sys2Proof Sys2Proof.Machine

/-! ## Reset and the environment -/

/-- 10_state.md R32: every piece of state has its reset value, on every machine. The step number starting at 0 is R145's;
the program is the environment's (log 5). -/
def Obligations.LaunchStateIsAllZero : Prop :=
  ∀ (c : Config) (p : List InstrWord),
    (State.launch c p).cfg = c ∧ (State.launch c p).program = p ∧
    (State.launch c p).x.length = c.stackCap ∧
    (∀ i < c.stackCap, readSlot (State.launch c p).x i = 0) ∧
    (State.launch c p).pc = 0 ∧ (State.launch c p).valA = 0 ∧ (State.launch c p).valB = 0 ∧
    (State.launch c p).res = 0 ∧ (State.launch c p).fault.bits = 0 ∧ (State.launch c p).stepNo = 0 ∧
    State.reset = State.launch defaultConfig []

/-- The invariant of `StepKeepsInvariant` holds at launch on every admitted machine, and at reset. -/
def Obligations.InvariantHoldsAtLaunch : Prop :=
  (∀ (c : Config) (p : List InstrWord), c.Admitted → (State.launch c p).Inv) ∧ State.reset.Inv

/-- 70_reset_and_hazards.md R143, R145, R146: with the fault latch clear and a word that decodes, a step is the decoded
instruction's meaning, and then the step number moves on. -/
def Obligations.StepRunsTheDecodedInstruction : Prop :=
  ∀ (s : State) (w : InstrWord) (i : Instr), s.fault = .none → s.fetch = some w →
    decode s.cfg.opcodeMap w = .ok i →
    step s = mapNext (fun t => { t with stepNo := t.stepNo + 1 }) (exec i s)

/-- 70_reset_and_hazards.md R145: in the sequential environment, whatever the run does, after `k` more steps the next word
is the one `k` places further on. Also in a run from launch whose words never write `pc`, `pc` = `k` (modulo 2^XLEN, D8,
log 9) before step `k`. -/
def Obligations.SequentialSupplyFollowsTheProgram : Prop :=
  (∀ (k : Nat) (s t : State), s.cfg.envFetch = .sequential → runSteps k s = .next t →
    t.stepNo = s.stepNo + k ∧ t.fetch = s.program[s.stepNo + k]?) ∧
  (∀ (k : Nat) (c : Config) (p : List InstrWord) (t : State), c.envFetch = .sequential →
    (∀ w ∈ p, (decodeFields w).dest ≠ 2) → runSteps k (State.launch c p) = .next t →
    t.pc.toNat = k % 2 ^ c.xlen)

/-- 70_reset_and_hazards.md R146, R147 (the spec's own environment, D9): each step executes the word at position `pc`; at
`pc` >= N the run is over and no step is taken (the refusal is the model's form, log 5). -/
def Obligations.PcIndexedSupplyFollowsThePc : Prop :=
  ∀ (s : State), s.cfg.envFetch = .pcIndexed → s.fault = .none →
    (∀ h : s.pc.toNat < s.program.length, step s = feedWord (s.program[s.pc.toNat]) s) ∧
    (s.program.length ≤ s.pc.toNat → step s = .refused .runOver)

/-- 70_reset_and_hazards.md R147: in the sequential environment, on an admitted machine whose SCAN_LEN is below STACK_CAP
(so that no push overflows, R123), a run of legal words ends normally after exactly the steps that are left, and the next
step finds no instruction (the refusal is the model's form, log 5). -/
def Obligations.SequentialRunEndsAfterItsLastWord : Prop :=
  ∀ (s : State), s.cfg.Admitted → s.cfg.scanLen < s.cfg.stackCap → s.cfg.envFetch = .sequential → s.fault = .none →
    s.stepNo ≤ s.program.length → (∀ w ∈ s.program, LegalWord s.cfg.opcodeMap w) →
    ∃ t, runSteps (s.program.length - s.stepNo) s = .next t ∧ t.stepNo = s.program.length ∧
      step t = .refused .runOver

/-- The model's loading of one instruction (log 5): the next step takes exactly the word that was loaded, in either
environment and from any state, and the registers, the parameters and the step number are untouched. -/
def Obligations.LoadedWordIsTheNextWord : Prop :=
  ∀ (s : State) (nbits w : Nat),
    (s.withFetchWord nbits w).fetch = some (BitVec.ofNat 16 (w % 2 ^ nbits)) ∧
    step (s.withFetchWord nbits w) = feedWord (BitVec.ofNat 16 (w % 2 ^ nbits)) (s.withFetchWord nbits w) ∧
    ∃ p, s.withFetchWord nbits w = { s with program := p, fault := .none }

/-! ## Encoding -/

/-- 30_encoding.md R61, R62, R65: words written out bit by bit, one of each family and one of each operand form. The
opcode numbers are the default map's (D4, log 2). -/
def Obligations.SampleWordsDecode : Prop :=
  decode defaultOpcodeMap 0b0000010100101000#16 = .ok (.and .push (.slot true 0) (.slot true 1)) ∧
  decode defaultOpcodeMap 0b0001011000010101#16 = .ok (.or .push (.imm false 5) (.imm false 0)) ∧
  decode defaultOpcodeMap 0b0001011000011011#16 = .ok (.or .push (.imm true 3) (.imm false 0)) ∧
  decode defaultOpcodeMap 0b0010110100001010#16 = .ok (.xor .reserved (.slot true 2) (.slot true 0)) ∧
  decode defaultOpcodeMap 0b0011101010010101#16 = .ok (.slo .writePc (.imm false 5) (.imm false 4)) ∧
  decode defaultOpcodeMap 0b0100000000100111#16 = .ok (.slz .drop (.slot false 7) (.slot false 1)) ∧
  decode defaultOpcodeMap 0b1010010110100101#16 = .error (.invalidOpcode 0b1010010110100101#16)

/-- 30_encoding.md R63: each leaf field is `(w AND mask) >> shift` with the masks and shifts of the table. -/
def Obligations.FieldsAreMaskAndShift : Prop :=
  ∀ w : InstrWord,
    (decodeFields w).opcode.toNat = (w.toNat &&& 0xF000) >>> 12 ∧
    (decodeFields w).dest.toNat = (w.toNat &&& 0x0C00) >>> 10 ∧
    (decodeFields w).bImm.toNat = (w.toNat &&& 0x0200) >>> 9 ∧
    (decodeFields w).bCons.toNat = (w.toNat &&& 0x0100) >>> 8 ∧
    (decodeFields w).bVal.toNat = (w.toNat &&& 0x00E0) >>> 5 ∧
    (decodeFields w).aImm.toNat = (w.toNat &&& 0x0010) >>> 4 ∧
    (decodeFields w).aCons.toNat = (w.toNat &&& 0x0008) >>> 3 ∧
    (decodeFields w).aVal.toNat = (w.toNat &&& 0x0007) >>> 0

/-- 30_encoding.md R73: the fields tile the word, so decoding and encoding undo each other in both directions; the
encoded word is the sum of its shifted fields. -/
def Obligations.FieldsTileTheWord : Prop :=
  (∀ f : Fields, decodeFields (encodeFields f) = f) ∧
  (∀ w : InstrWord, encodeFields (decodeFields w) = w) ∧
  (∀ f : Fields, (encodeFields f).toNat =
    f.opcode.toNat * 2 ^ 12 + f.dest.toNat * 2 ^ 10 + f.bImm.toNat * 2 ^ 9 + f.bCons.toNat * 2 ^ 8 +
      f.bVal.toNat * 2 ^ 5 + f.aImm.toNat * 2 ^ 4 + f.aCons.toNat * 2 ^ 3 + f.aVal.toNat)

/-- 30_encoding.md R65, R66, R73: under every injective opcode map, every instruction decodes back from its word, with
every operand at every value (the reserved destination and the consume flag beside an immediate included). -/
def Obligations.EveryInstructionDecodesBack : Prop :=
  ∀ (m : OpcodeMap) (i : Instr), m.Injective → decode m (encode m i) = .ok i

/-- 30_encoding.md R73, R72: a word that decodes has no other spelling: encoding what it decodes to gives it back. -/
def Obligations.EveryDecodedWordEncodesBack : Prop :=
  ∀ (m : OpcodeMap) (w : InstrWord) (i : Instr), decode m w = .ok i → encode m i = w

/-- 30_encoding.md R70: a word whose opcode is not in OPCODE_MAP raises InvalidOpcode, whatever its other fields and the
state; no other word does; under the map AND=0, OR=1, XOR=2, SLO=3, SLZ=4 these are the words from 0x5000 on. -/
def Obligations.UndefinedOpcodeRaisesInvalidOpcode : Prop :=
  (∀ (s : State) (w : InstrWord), (∀ op, s.cfg.opcodeMap.code op ≠ (decodeFields w).opcode) →
    engine w s = .fault (.invalidOpcode w)) ∧
  (∀ (s : State) (w v : InstrWord) (op : AluOp), s.cfg.opcodeMap.code op = (decodeFields w).opcode →
    engine w s ≠ .fault (.invalidOpcode v)) ∧
  (∀ w : InstrWord, (∀ op, (OpcodeMap.mk 0 1 2 3 4).code op ≠ (decodeFields w).opcode) ↔ 0x5000 ≤ w.toNat)

/-- 30_encoding.md R69: beside a set immediate flag the consume flag is ignored: a legal word with `s[4] = 1` executes
alike with `s[3]` set and clear, for selector A (bits 4, 3) and selector B (bits 9, 8), in every state. An effective
consume is the consume flag with the immediate flag clear, and only that puts a slot into the consumed set. -/
def Obligations.ConsumeFlagIsIgnoredBesideAnImmediate : Prop :=
  (∀ (s : State) (w : InstrWord), LegalWord s.cfg.opcodeMap w → w.getLsbD 4 = true →
    engine (w ||| 0x0008#16) s = engine (w &&& 0xFFF7#16) s) ∧
  (∀ (s : State) (w : InstrWord), LegalWord s.cfg.opcodeMap w → w.getLsbD 9 = true →
    engine (w ||| 0x0100#16) s = engine (w &&& 0xFEFF#16) s) ∧
  (∀ (sel : Selector) (k : Nat), k ∈ consumedSlot sel ↔
    (sel.consFlag && !sel.immFlag) = true ∧ k = sel.number.toNat)

/-- 30_encoding.md R75: the words of the pseudo-instructions under the default map (D4, D15, log 2). -/
def Obligations.PseudoInstructionWords : Prop :=
  (∀ n : BitVec 3, encode defaultOpcodeMap (Asm.pushi n).instr = 0x1610#16 + n.setWidth 16) ∧
  (∀ k : BitVec 3, encode defaultOpcodeMap (Asm.dup k).instr = 0x1400#16 + 33#16 * k.setWidth 16) ∧
  encode defaultOpcodeMap Asm.pop.instr = 0x0108#16 ∧
  (∀ n : BitVec 3, encode defaultOpcodeMap (Asm.jmpi n).instr = 0x1A10#16 + n.setWidth 16) ∧
  encode defaultOpcodeMap Asm.jmps.instr = 0x1908#16 ∧
  encode defaultOpcodeMap Asm.nopi.instr = 0x0210#16

/-! ## The instructions: result, next state, frame -/

/-- 41_bitwise.md R100 with 40_datapath.md R85 to R93: on every admitted machine AND with a legal destination completes
unless the rebuild overflows; its result is the bitwise conjunction, its new stack the closed form of R93, its `pc` the
result or `pc + 1` (the wrap is D8, log 9), its latches the operands and the result; nothing else changes. -/
def Obligations.AndCompletesWithItsResult : Prop :=
  ∀ (s : State) (d : Dest) (a b : Selector), s.cfg.Admitted → d.isKind = true → ¬ Overflows s.cfg d a b →
    ∃ (r : Word s.cfg.xlen) (x' : List (Word s.cfg.xlen)),
      (∀ i < s.cfg.xlen, r.getLsbD i = ((operandValue s.x a).getLsbD i && (operandValue s.x b).getLsbD i)) ∧
      Rebuilt s.cfg d a b r s.x x' ∧ exec (.and d a b) s = .next (s.after d a b r x')

/-- 41_bitwise.md R101: the same of OR, with the bitwise disjunction (`pc` wrap: D8, log 9). -/
def Obligations.OrCompletesWithItsResult : Prop :=
  ∀ (s : State) (d : Dest) (a b : Selector), s.cfg.Admitted → d.isKind = true → ¬ Overflows s.cfg d a b →
    ∃ (r : Word s.cfg.xlen) (x' : List (Word s.cfg.xlen)),
      (∀ i < s.cfg.xlen, r.getLsbD i = ((operandValue s.x a).getLsbD i || (operandValue s.x b).getLsbD i)) ∧
      Rebuilt s.cfg d a b r s.x x' ∧ exec (.or d a b) s = .next (s.after d a b r x')

/-- 41_bitwise.md R102: the same of XOR, with the bitwise exclusive or (`pc` wrap: D8, log 9). -/
def Obligations.XorCompletesWithItsResult : Prop :=
  ∀ (s : State) (d : Dest) (a b : Selector), s.cfg.Admitted → d.isKind = true → ¬ Overflows s.cfg d a b →
    ∃ (r : Word s.cfg.xlen) (x' : List (Word s.cfg.xlen)),
      (∀ i < s.cfg.xlen,
        r.getLsbD i = Bool.xor ((operandValue s.x a).getLsbD i) ((operandValue s.x b).getLsbD i)) ∧
      Rebuilt s.cfg d a b r s.x x' ∧ exec (.xor d a b) s = .next (s.after d a b r x')

/-- 42_shift.md R110, R112: the same of SLO, with the bits of the fill-ones shift: below the amount ones, above it the
bits of operand A moved up. At an amount of XLEN or more every bit is one: that case is D7 (log 8). `pc` wrap: D8, log 9. -/
def Obligations.SloCompletesWithItsResult : Prop :=
  ∀ (s : State) (d : Dest) (a b : Selector), s.cfg.Admitted → d.isKind = true → ¬ Overflows s.cfg d a b →
    ∃ (r : Word s.cfg.xlen) (x' : List (Word s.cfg.xlen)),
      (∀ i < s.cfg.xlen, r.getLsbD i =
        if i < (operandValue s.x b).toNat then true
        else (operandValue s.x a).getLsbD (i - (operandValue s.x b).toNat)) ∧
      Rebuilt s.cfg d a b r s.x x' ∧ exec (.slo d a b) s = .next (s.after d a b r x')

/-- 42_shift.md R111, R112: the same of SLZ, with the bits of the fill-zeros shift. At an amount of XLEN or more every bit
is zero: that case is D7 (log 8). `pc` wrap: D8, log 9. -/
def Obligations.SlzCompletesWithItsResult : Prop :=
  ∀ (s : State) (d : Dest) (a b : Selector), s.cfg.Admitted → d.isKind = true → ¬ Overflows s.cfg d a b →
    ∃ (r : Word s.cfg.xlen) (x' : List (Word s.cfg.xlen)),
      (∀ i < s.cfg.xlen, r.getLsbD i =
        if i < (operandValue s.x b).toNat then false
        else (operandValue s.x a).getLsbD (i - (operandValue s.x b).toNat)) ∧
      Rebuilt s.cfg d a b r s.x x' ∧ exec (.slz d a b) s = .next (s.after d a b r x')

/-- 40_datapath.md R82, R83: what the two operands are, read off the latches of a successful step: the zero-extended
immediate or the old slot, whatever the consume flag; every 3-bit index names an existing slot. -/
def Obligations.OperandsResolve : Prop :=
  (∀ (s t : State) (i : Instr), s.Wf → exec i s = .next t →
    (∀ c v, i.a = .imm c v → t.valA.toNat = v.toNat) ∧
    (∀ c k, i.a = .slot c k → t.valA.toNat = (readSlot s.x k.toNat).toNat) ∧
    (∀ c v, i.b = .imm c v → t.valB.toNat = v.toNat) ∧
    (∀ c k, i.b = .slot c k → t.valB.toNat = (readSlot s.x k.toNat).toNat)) ∧
  (∀ (s : State) (k : BitVec 3), s.Wf → s.x[k.toNat]? = some (readSlot s.x k.toNat))

/-- 40_datapath.md R92: every successful step latches both operand values and the result, whatever the destination (the
result's formula at a shift amount of XLEN or more is D7, log 8). A faulting step latches nothing: said of the clock edge
of the hardware rendering, 10_state.md R27 and 70_reset_and_hazards.md R143 (D11, D10; log 6, log 15). -/
def Obligations.LatchesTakeOperandsAndResult : Prop :=
  (∀ (s t : State) (i : Instr), exec i s = .next t →
    t.valA.toNat = (operandValue s.x i.a).toNat ∧ t.valB.toNat = (operandValue s.x i.b).toNat ∧
    t.res.toNat = (i.op.formula (operandValue s.x i.a) (operandValue s.x i.b)).toNat) ∧
  (∀ (s : State) (w : InstrWord) (f : Fault), engine w s = .fault f →
    (clockEdge ⟨false, true, w⟩ s).valA.toNat = s.valA.toNat ∧
    (clockEdge ⟨false, true, w⟩ s).valB.toNat = s.valB.toNat ∧
    (clockEdge ⟨false, true, w⟩ s).res.toNat = s.res.toNat)

/-- 40_datapath.md R85: DROP writes its result to neither stack nor `pc` (the new stack is the same for all five
operations), latches it, advances `pc` by one (wrap: D8, log 9) and still rebuilds the stack by R93. -/
def Obligations.DropDiscardsTheResult : Prop :=
  ∀ (s : State) (a b : Selector), s.cfg.Admitted →
    ∃ x' : List (Word s.cfg.xlen),
      (∀ r, Rebuilt s.cfg .drop a b r s.x x') ∧
      ∀ op : AluOp, exec (Instr.mk op .drop a b) s = .next { s with
        x := x'
        pc := s.pc + 1
        valA := operandValue s.x a
        valB := operandValue s.x b
        res := op.formula (operandValue s.x a) (operandValue s.x b) }

/-- 40_datapath.md R86: PUSH-STACK puts its result at slot 0 and every slot of the stack that DROP would leave one place
further down, the last one leaving; `pc` advances by one (wrap: D8, log 9). -/
def Obligations.PushPutsTheResultOnTop : Prop :=
  ∀ (s : State) (a b : Selector) (op : AluOp), s.cfg.Admitted → ¬ Overflows s.cfg .push a b →
    ∃ x₀ x' : List (Word s.cfg.xlen),
      exec (Instr.mk op .drop a b) s =
        .next (s.after .drop a b (op.formula (operandValue s.x a) (operandValue s.x b)) x₀) ∧
      exec (Instr.mk op .push a b) s =
        .next (s.after .push a b (op.formula (operandValue s.x a) (operandValue s.x b)) x') ∧
      x' = (op.formula (operandValue s.x a) (operandValue s.x b) :: x₀).take s.cfg.stackCap ∧
      readSlot x' 0 = op.formula (operandValue s.x a) (operandValue s.x b)

/-- 40_datapath.md R87: WRITE-PC loads the whole result into `pc` and pushes nothing; the stack and the latches are what
DROP leaves; nothing keeps the old `pc`. Every other successful step advances `pc` by one modulo 2^XLEN. -/
def Obligations.WritePcLoadsTheResult : Prop :=
  (∀ (s : State) (a b : Selector) (op : AluOp), s.cfg.Admitted →
    ∃ x₀ : List (Word s.cfg.xlen),
      exec (Instr.mk op .drop a b) s =
        .next (s.after .drop a b (op.formula (operandValue s.x a) (operandValue s.x b)) x₀) ∧
      ∀ v : Word s.cfg.xlen, exec (Instr.mk op .writePc a b) { s with pc := v } = .next
        { s.after .drop a b (op.formula (operandValue s.x a) (operandValue s.x b)) x₀ with
          pc := op.formula (operandValue s.x a) (operandValue s.x b) }) ∧
  (∀ (s t : State) (i : Instr), exec i s = .next t → i.dest ≠ .writePc →
    t.pc.toNat = (s.pc.toNat + 1) % 2 ^ s.cfg.xlen)

/-- 40_datapath.md R86, 70_reset_and_hazards.md R148: a pushed result is what the very next instruction reads in slot 0. -/
def Obligations.PushedResultIsReadNext : Prop :=
  ∀ (s t u : State) (i j : Instr), s.cfg.Admitted → exec i s = .next t → i.dest = .push → exec j t = .next u →
    (∀ c, j.a = .slot c 0 → u.valA.toNat = t.res.toNat) ∧ (∀ c, j.b = .slot c 0 → u.valB.toNat = t.res.toNat)

/-- 41_bitwise.md R103: the bitwise results are the standard truth tables bit by bit, and exchanging the selectors of a
bitwise instruction exchanges the operand latches and changes nothing else, faults included. -/
def Obligations.BitwiseOperandsCommute : Prop :=
  (∀ (s : State) (d : Dest) (a b : Selector), d.isKind = true →
    exec (.and d b a) s = mapNext State.swapLatches (exec (.and d a b) s) ∧
    exec (.or d b a) s = mapNext State.swapLatches (exec (.or d a b) s) ∧
    exec (.xor d b a) s = mapNext State.swapLatches (exec (.xor d a b) s)) ∧
  (∀ (s t : State) (d : Dest) (a b : Selector) (i : Nat), i < s.cfg.xlen →
    (exec (.and d a b) s = .next t → t.res.getLsbD i = (t.valA.getLsbD i && t.valB.getLsbD i)) ∧
    (exec (.or d a b) s = .next t → t.res.getLsbD i = (t.valA.getLsbD i || t.valB.getLsbD i)) ∧
    (exec (.xor d a b) s = .next t → t.res.getLsbD i = (t.valA.getLsbD i != t.valB.getLsbD i)))

/-- 30_encoding.md R75: what each pseudo-instruction does when it completes, slot by slot (which it does at every admitted
parameter choice but for the overflow of R90). The aliases are the spec's own (D15). -/
def Obligations.PseudoInstructionEffects : Prop :=
  ∀ s t : State, s.cfg.Admitted → 0 < s.cfg.scanLen →
    (∀ n, exec (Asm.pushi n).instr s = .next t → (readSlot t.x 0).toNat = n.toNat ∧
      ∀ k < s.cfg.scanLen, (readSlot t.x (k + 1)).toNat = (readSlot s.x k).toNat) ∧
    (∀ k, exec (Asm.dup k).instr s = .next t → (readSlot t.x 0).toNat = (readSlot s.x k.toNat).toNat ∧
      ∀ j < s.cfg.scanLen, (readSlot t.x (j + 1)).toNat = (readSlot s.x j).toNat) ∧
    (exec Asm.pop.instr s = .next t →
      ∀ k, k + 1 < s.cfg.scanLen → (readSlot t.x k).toNat = (readSlot s.x (k + 1)).toNat) ∧
    (∀ n, exec (Asm.jmpi n).instr s = .next t → t.pc.toNat = n.toNat) ∧
    (exec Asm.jmps.instr s = .next t → t.pc.toNat = (readSlot s.x 0).toNat ∧
      ∀ k, k + 1 < s.cfg.scanLen → (readSlot t.x k).toNat = (readSlot s.x (k + 1)).toNat) ∧
    (exec Asm.nopi.instr s = .next t →
      (∀ k < s.cfg.scanLen, (readSlot t.x k).toNat = (readSlot s.x k).toNat) ∧
      (∀ k, s.cfg.scanLen ≤ k → readSlot t.x k = 0))

/-- 42_shift.md R113 (with R112 for the large amounts, D7, log 8): the fill-ones shift is the fill-zeros shift with the
low ones put in; it is the formula of R110 on integers, whatever width `valueA + 1` is computed in; the fill-zeros shift
is the formula of R111. -/
def Obligations.ShiftIdentities : Prop :=
  ∀ (n : Nat) (a b : Word n),
    aluSlo a b = aluSlz a b ||| aluSlo 0 b ∧
    aluSlo a b = BitVec.ofNat n ((a.toNat + 1) * 2 ^ b.toNat - 1) ∧
    aluSlo a b = BitVec.ofNat n ((a + 1).toNat * 2 ^ b.toNat) - 1 ∧
    aluSlo a b = BitVec.ofNat n (a.toNat * 2 ^ b.toNat ||| (2 ^ b.toNat - 1)) ∧
    aluSlz a b = BitVec.ofNat n (a.toNat * 2 ^ b.toNat)

/-- 42_shift.md R112: at an amount of XLEN or more SLZ gives 0 and SLO gives all ones. The spec's decision D7 (log 8), not
the source's rule. -/
def Obligations.LargeShiftAmountsAreNotMasked : Prop :=
  ∀ (s : State) (d : Dest) (a b : Selector), s.cfg.Admitted → d.isKind = true → ¬ Overflows s.cfg d a b →
    s.cfg.xlen ≤ (operandValue s.x b).toNat →
    (∃ x', Rebuilt s.cfg d a b 0 s.x x' ∧ exec (.slz d a b) s = .next (s.after d a b 0 x')) ∧
    (∃ x', Rebuilt s.cfg d a b (BitVec.allOnes _) s.x x' ∧
      exec (.slo d a b) s = .next (s.after d a b (BitVec.allOnes _) x'))

/-! ## The stack rebuild -/

/-- 40_datapath.md R88: an index is consumed exactly if a selector names it as a stack slot with its consume flag set; the
set has no repeats (so a slot consumed twice is removed once), at most two elements, each at most 7. -/
def Obligations.ConsumedSetIsTheReferencedSlots : Prop :=
  ∀ (a b : Selector),
    (∀ k, k ∈ consumedSet a b ↔
      (a.immFlag = false ∧ a.consFlag = true ∧ k = a.number.toNat) ∨
      (b.immFlag = false ∧ b.consFlag = true ∧ k = b.number.toNat)) ∧
    (consumedSet a b).Nodup ∧ (consumedSet a b).length ≤ 2 ∧ ∀ k ∈ consumedSet a b, k ≤ 7

/-- 40_datapath.md R89, R91: the new stack is what the scan loop of R89 appends, started with the pushed result, followed
by zeros up to STACK_CAP. That slots at SCAN_LEN and above are not scanned is D3 (log 10). -/
def Obligations.RebuildFollowsTheScanLoop : Prop :=
  ∀ (s : State) (d : Dest) (a b : Selector) (op : AluOp), s.cfg.Admitted → d.isKind = true →
    ¬ Overflows s.cfg d a b →
    ∃ out : List (Word s.cfg.xlen),
      out = scanLoop s.cfg.scanLen (fun k => (consumedSet a b).contains k) s.x
        (if d = .push then [op.formula (operandValue s.x a) (operandValue s.x b)] else []) ∧
      exec (Instr.mk op d a b) s = .next (s.after d a b (op.formula (operandValue s.x a) (operandValue s.x b))
        (out ++ List.replicate (s.cfg.stackCap - out.length) 0))

/-- 40_datapath.md R90: the produced length by its formula; StackOverflow, with that length, exactly when it exceeds
STACK_CAP, else a next state; that is exactly the case `Overflows`; with SCAN_LEN = 8 the length is at most 9, and with
STACK_CAP = 16 besides the fault cannot occur. -/
def Obligations.OverflowExactlyByTheLengthFormula : Prop :=
  (∀ (s : State) (i : Instr), s.cfg.Admitted → i.wellFormed = true →
    (s.cfg.stackCap < producedLength s.cfg.scanLen i.dest i.a i.b →
      exec i s = .fault (.stackOverflow (producedLength s.cfg.scanLen i.dest i.a i.b))) ∧
    (producedLength s.cfg.scanLen i.dest i.a i.b ≤ s.cfg.stackCap → ∃ t, exec i s = .next t)) ∧
  (∀ (c : Config) (d : Dest) (a b : Selector), c.Admitted →
    (c.stackCap < producedLength c.scanLen d a b ↔ Overflows c d a b)) ∧
  (∀ (d : Dest) (a b : Selector), producedLength 8 d a b ≤ 9) ∧
  (∀ (s : State) (i : Instr) (n : Nat), s.cfg.scanLen = 8 → s.cfg.stackCap = 16 → exec i s ≠ .fault (.stackOverflow n))

/-- 10_state.md R24 (slots above the scan range are not copied: D3, log 10): after any successful step every slot above
SCAN_LEN is zero, slot SCAN_LEN is non-zero only after a push that consumed nothing in the scan range, and it is then the
old slot SCAN_LEN - 1. -/
def Obligations.DeepSlotsDoNotSurvive : Prop :=
  ∀ (s t : State) (i : Instr), s.cfg.Admitted → exec i s = .next t →
    (∀ j, s.cfg.scanLen + 1 ≤ j → readSlot t.x j = 0) ∧
    (readSlot t.x s.cfg.scanLen ≠ 0 →
      i.dest = .push ∧ consumedInScan s.cfg.scanLen i.a i.b = []) ∧
    (i.dest = .push → consumedInScan s.cfg.scanLen i.a i.b = [] → 0 < s.cfg.scanLen →
      (readSlot t.x s.cfg.scanLen).toNat = (readSlot s.x (s.cfg.scanLen - 1)).toNat)

/-! ## Faults -/

/-- 00_scope.md R13: the CORE's step has exactly two outcomes, a next state or a fault; it never stalls, holds or
refuses. -/
def Obligations.EngineAnswersNextOrFault : Prop :=
  ∀ (w : InstrWord) (s : State),
    ((∃ t, engine w s = .next t) ∧ ¬ ∃ f, engine w s = .fault f) ∨
    ((∃ f, engine w s = .fault f) ∧ ¬ ∃ t, engine w s = .next t)

/-- 60_exceptions.md R122 and 30_encoding.md R71: an instruction with the reserved destination raises ReservedDestination,
with its own word, in every state. The spec's decision D6 (log 7), not the source's rule. -/
def Obligations.ReservedDestinationStops : Prop :=
  ∀ (s : State) (i : Instr), i.dest = .reserved →
    exec i s = .fault (.reservedDestination (encode s.cfg.opcodeMap i))

/-- 60_exceptions.md R121, R122, R123, R124: which fault a word raises: InvalidOpcode before ReservedDestination before
StackOverflow, each with the information of R120, and none otherwise. The order is the spec's decision D12 (log 12) and
the second fault its decision D6 (log 7). -/
def Obligations.FaultPriority : Prop :=
  ∀ (s : State) (w : InstrWord), s.cfg.Admitted →
    ((∀ op, s.cfg.opcodeMap.code op ≠ (decodeFields w).opcode) → engine w s = .fault (.invalidOpcode w)) ∧
    (∀ i, decode s.cfg.opcodeMap w = .ok i →
      ((decodeFields w).dest = 3 → engine w s = .fault (.reservedDestination w)) ∧
      ((decodeFields w).dest ≠ 3 → Overflows s.cfg i.dest i.a i.b →
        engine w s = .fault (.stackOverflow (s.cfg.stackCap + 1))) ∧
      ((decodeFields w).dest ≠ 3 → ¬ Overflows s.cfg i.dest i.a i.b → ∃ t, engine w s = .next t))

/-- 30_encoding.md R72 at the default parameters: exactly the words below 0x5000 whose destination is not 3 run, in every
state. The numbers are the default map's (D4, log 2). -/
def Obligations.LegalWordsRunAtTheDefaults : Prop :=
  ∀ (s : State) (w : InstrWord), s.cfg = defaultConfig →
    ((∃ t, engine w s = .next t) ↔ (w.toNat < 0x5000 ∧ (w.toNat &&& 0x0C00) >>> 10 ≠ 3))

/-- 60_exceptions.md R123: where SCAN_LEN is below STACK_CAP no run, from whatever state, ends with StackOverflow; where
they are equal every push with no effective consume in the scan range raises it, whatever the stack holds. -/
def Obligations.OverflowReachability : Prop :=
  (∀ (n : Nat) (s : State) (k : Nat), s.cfg.Admitted → s.cfg.scanLen < s.cfg.stackCap →
    runSteps n s ≠ .fault (.stackOverflow k)) ∧
  (∀ (s : State) (i : Instr), s.cfg.Admitted → s.cfg.scanLen = s.cfg.stackCap → i.dest = .push →
    consumedInScan s.cfg.scanLen i.a i.b = [] → ∃ k, s.cfg.stackCap < k ∧ exec i s = .fault (.stackOverflow k))

/-! ## The hardware rendering -/

/-- 10_state.md R27, 60_exceptions.md R120, R125: a faulting edge writes the fault's code, which is not 0, into the latch
and every other register holds. The latch and the codes are the spec's decision D11 (log 6). -/
def Obligations.FaultingEdgeOnlyLatchesTheCode : Prop :=
  (∀ (s : State) (w : InstrWord) (f : Fault), s.fault = .none → engine w s = .fault f →
    clockEdge ⟨false, true, w⟩ s = { s with fault := f.code } ∧ f.code.bits ≠ 0) ∧
  (∀ (w : InstrWord) (k : Nat), FaultCode.none.bits = 0 ∧ (Fault.invalidOpcode w).code.bits = 1 ∧
    (Fault.stackOverflow k).code.bits = 2 ∧ (Fault.reservedDestination w).code.bits = 3)

/-- 10_state.md R27, 60_exceptions.md R126, 70_reset_and_hazards.md R141, R143 (decisions D10, D11, D13; log 6, log 15):
with a fault latched no sequence of edges without reset changes anything and no step is taken; idle edges change nothing;
an edge with reset gives the launch state, whatever the other ports are. -/
def Obligations.OnlyResetLeavesALatchedFault : Prop :=
  (∀ (s : State) (ps : List Ports), s.fault ≠ .none → (∀ p ∈ ps, p.rst = false) →
    ps.foldl (fun t p => clockEdge p t) s = s ∧ step s = .refused (.latched s.fault)) ∧
  (∀ (s : State) (ps : List Ports), (∀ p ∈ ps, p.rst = false ∧ p.en = false) →
    ps.foldl (fun t p => clockEdge p t) s = s) ∧
  (∀ (s : State) (p : Ports), p.rst = true → clockEdge p s = State.launch s.cfg s.program)

/-- 10_state.md R27 ("the two are the same machine"), 70_reset_and_hazards.md R143, R147: any number of clock edges under
the driver does what the run of steps does: the same state while it goes on, the last good state with the code in the
latch once a step faults, the last state once no step is taken. Decisions D10, D11 (log 6, log 15). -/
def Obligations.ClockedMachineRefinesTheRun : Prop :=
  ∀ (n : Nat) (s : State),
    match runSteps n s with
    | .next t    => ticks n s = t
    | .fault f   => ∃ m < n, ∃ t, runSteps m s = .next t ∧ step t = .fault f ∧ ticks n s = t.latchFault f
    | .refused r => ∃ m < n, ∃ t, runSteps m s = .next t ∧ step t = .refused r ∧ ticks n s = t

/-! ## Rules of the whole machine -/

/-- 40_datapath.md R81: on every word and every state, the model's engine is the pseudocode of R81 on the raw bits of the
word. The pseudocode carries the spec's decisions D3, D6, D7, D8 and, in the order of its fault checks, D12 (log 10, 7, 8,
9, 12). -/
def Obligations.EngineIsThePseudocode : Prop :=
  ∀ (w : InstrWord) (s : State), engine w s = pseudocodeStep w s

/-- 10_state.md R21, R24, 40_datapath.md R95: every step of the machine keeps the invariant: the parameters stay admitted,
the stack has exactly STACK_CAP slots, and every slot above SCAN_LEN is zero (D3, log 10). -/
def Obligations.StepKeepsInvariant : Prop :=
  ∀ s t : State, s.Inv → step s = .next t → t.Inv

/-- 10_state.md R21, R24, R95: the invariant on every state of every run from the launch state, and at the default
parameters slots 9 to 15 are zero in each of them (D2, D3, log 2). -/
def Obligations.EveryRunKeepsTheStackShape : Prop :=
  (∀ (n : Nat) (c : Config) (p : List InstrWord) (t : State), c.Admitted →
    runSteps n (State.launch c p) = .next t → t.x.length = c.stackCap ∧ t.Inv) ∧
  (∀ (n : Nat) (p : List InstrWord) (t : State), runSteps n (State.launch defaultConfig p) = .next t →
    t.x.length = 16 ∧ ∀ j, 9 ≤ j → readSlot t.x j = 0)

/-- 20_memory.md R42, R51, 10_state.md R27, R29: no instruction writes the program, the parameters, the step number or the
fault latch; a step moves the step number on by one, leaves the program and the parameters alone, and starts and ends with
the latch clear. -/
def Obligations.EnvironmentIsOutOfReach : Prop :=
  (∀ (s t : State) (i : Instr), exec i s = .next t →
    t.cfg = s.cfg ∧ t.program = s.program ∧ t.stepNo = s.stepNo ∧ t.fault = s.fault) ∧
  (∀ s t : State, step s = .next t →
    t.cfg = s.cfg ∧ t.program = s.program ∧ t.stepNo = s.stepNo + 1 ∧ s.fault = .none ∧ t.fault = .none)

/-- 10_state.md R26: no rule of any later step reads the latches: from two states that differ only in them, runs of any
length end alike but for the latches, and from the first step on they end alike whole. -/
def Obligations.LatchesAreNotLoadBearing : Prop :=
  ∀ (n : Nat) (s : State) (valA valB res : Word s.cfg.xlen),
    mapNext State.forgetLatches (runSteps n { s with valA := valA, valB := valB, res := res }) =
      mapNext State.forgetLatches (runSteps n s) ∧
    (0 < n → runSteps n { s with valA := valA, valB := valB, res := res } = runSteps n s)

/-- 10_state.md R22, R24, 40_datapath.md R94 (i): slots 8 and above can be neither named nor kept: two states that agree
on the first eight slots step alike. -/
def Obligations.DeepSlotsAreInvisible : Prop :=
  ∀ (s : State) (x' : List (Word s.cfg.xlen)), s.cfg.Admitted →
    (∀ k < 8, readSlot x' k = readSlot s.x k) → step { s with x := x' } = step s

/-- 70_reset_and_hazards.md R145, 10_state.md R25: in the sequential environment the instruction pointer selects nothing:
runs of any length from two states that differ only in `pc` end alike, but for `pc`. -/
def Obligations.PcIsInvisibleToSequentialRuns : Prop :=
  ∀ (n : Nat) (s : State) (v : Word s.cfg.xlen), s.cfg.envFetch = .sequential →
    mapNext State.forgetPc (runSteps n { s with pc := v }) = mapNext State.forgetPc (runSteps n s)

/-- 70_reset_and_hazards.md R147 (with 10_state.md R27, decisions D9, D10, D11; log 2, 15, 6): the driver enables the CORE,
with the next word, exactly while a step is taken; once the run is over the state stays as it is and `en` stays 0, and a
fault ends the run so from the faulting edge on. What `instr` is then the spec leaves open, and nothing is stated of it. -/
def Obligations.EnableStaysLowAfterTheEnd : Prop :=
  (∀ (s : State) (w : InstrWord), s.fault = .none → s.fetch = some w → s.driverPorts = ⟨false, true, w⟩) ∧
  (∀ s : State, s.driverPorts.en = false ↔ ∃ r, step s = .refused r) ∧
  (∀ (s : State) (r : Refusal) (n : Nat), step s = .refused r → ticks n s = s ∧ (ticks n s).driverPorts.en = false) ∧
  (∀ (s : State) (f : Fault) (n : Nat), step s = .fault f →
    ticks (n + 1) s = s.latchFault f ∧ (ticks (n + 1) s).driverPorts.en = false)
end

