-- ==== Sys2Proof/Laws/State.lean ====
section
/-! SUPPORT. One lemma per field per state update, so that no later proof unfolds a record update. -/

namespace Sys2Proof.Machine

/-! ### The launch state and reset -/

@[simp] theorem State.launch_cfg (c : Config) (p : List InstrWord) : (State.launch c p).cfg = c := rfl
@[simp] theorem State.launch_x (c : Config) (p : List InstrWord) :
    (State.launch c p).x = List.replicate c.stackCap 0 := rfl
@[simp] theorem State.launch_pc (c : Config) (p : List InstrWord) : (State.launch c p).pc = 0 := rfl
@[simp] theorem State.launch_valA (c : Config) (p : List InstrWord) : (State.launch c p).valA = 0 := rfl
@[simp] theorem State.launch_valB (c : Config) (p : List InstrWord) : (State.launch c p).valB = 0 := rfl
@[simp] theorem State.launch_res (c : Config) (p : List InstrWord) : (State.launch c p).res = 0 := rfl
@[simp] theorem State.launch_fault (c : Config) (p : List InstrWord) : (State.launch c p).fault = .none := rfl
@[simp] theorem State.launch_program (c : Config) (p : List InstrWord) : (State.launch c p).program = p := rfl
@[simp] theorem State.launch_stepNo (c : Config) (p : List InstrWord) : (State.launch c p).stepNo = 0 := rfl

theorem State.restart_eq_launch (s : State) : s.restart = State.launch s.cfg s.program := rfl

/-! ### A successful step -/

section commit
variable (s : State) (d : Dest) (va vb r : Word s.cfg.xlen) (out : List (Word s.cfg.xlen))

@[simp] theorem State.commit_cfg : (s.commit d va vb r out).cfg = s.cfg := rfl
@[simp] theorem State.commit_x : (s.commit d va vb r out).x = zeroFill s.cfg.stackCap out := rfl
@[simp] theorem State.commit_pc : (s.commit d va vb r out).pc = nextPc d r s.pc := rfl
@[simp] theorem State.commit_valA : (s.commit d va vb r out).valA = va := rfl
@[simp] theorem State.commit_valB : (s.commit d va vb r out).valB = vb := rfl
@[simp] theorem State.commit_res : (s.commit d va vb r out).res = r := rfl
@[simp] theorem State.commit_fault : (s.commit d va vb r out).fault = s.fault := rfl
@[simp] theorem State.commit_program : (s.commit d va vb r out).program = s.program := rfl
@[simp] theorem State.commit_stepNo : (s.commit d va vb r out).stepNo = s.stepNo := rfl

end commit

/-! ### The step number moving on -/

@[simp] theorem State.countStep_cfg (s : State) : s.countStep.cfg = s.cfg := rfl
@[simp] theorem State.countStep_x (s : State) : s.countStep.x = s.x := rfl
@[simp] theorem State.countStep_pc (s : State) : s.countStep.pc = s.pc := rfl
@[simp] theorem State.countStep_valA (s : State) : s.countStep.valA = s.valA := rfl
@[simp] theorem State.countStep_valB (s : State) : s.countStep.valB = s.valB := rfl
@[simp] theorem State.countStep_res (s : State) : s.countStep.res = s.res := rfl
@[simp] theorem State.countStep_fault (s : State) : s.countStep.fault = s.fault := rfl
@[simp] theorem State.countStep_program (s : State) : s.countStep.program = s.program := rfl
@[simp] theorem State.countStep_stepNo (s : State) : s.countStep.stepNo = s.stepNo + 1 := rfl

/-! ### The fault latch -/

@[simp] theorem State.latchFault_cfg (s : State) (f : Fault) : (s.latchFault f).cfg = s.cfg := rfl
@[simp] theorem State.latchFault_x (s : State) (f : Fault) : (s.latchFault f).x = s.x := rfl
@[simp] theorem State.latchFault_pc (s : State) (f : Fault) : (s.latchFault f).pc = s.pc := rfl
@[simp] theorem State.latchFault_valA (s : State) (f : Fault) : (s.latchFault f).valA = s.valA := rfl
@[simp] theorem State.latchFault_valB (s : State) (f : Fault) : (s.latchFault f).valB = s.valB := rfl
@[simp] theorem State.latchFault_res (s : State) (f : Fault) : (s.latchFault f).res = s.res := rfl
@[simp] theorem State.latchFault_fault (s : State) (f : Fault) : (s.latchFault f).fault = f.code := rfl
@[simp] theorem State.latchFault_program (s : State) (f : Fault) : (s.latchFault f).program = s.program := rfl
@[simp] theorem State.latchFault_stepNo (s : State) (f : Fault) : (s.latchFault f).stepNo = s.stepNo := rfl

theorem Fault.code_ne_none (f : Fault) : f.code ≠ .none := by cases f <;> simp [Fault.code]

/-! ### Loading a word -/

@[simp] theorem State.withFetchWord_cfg (s : State) (nbits w : Nat) : (s.withFetchWord nbits w).cfg = s.cfg := rfl
@[simp] theorem State.withFetchWord_x (s : State) (nbits w : Nat) : (s.withFetchWord nbits w).x = s.x := rfl
@[simp] theorem State.withFetchWord_pc (s : State) (nbits w : Nat) : (s.withFetchWord nbits w).pc = s.pc := rfl
@[simp] theorem State.withFetchWord_fault (s : State) (nbits w : Nat) : (s.withFetchWord nbits w).fault = .none := rfl
@[simp] theorem State.withFetchWord_stepNo (s : State) (nbits w : Nat) :
    (s.withFetchWord nbits w).stepNo = s.stepNo := rfl
@[simp] theorem State.withFetchWord_program (s : State) (nbits w : Nat) :
    (s.withFetchWord nbits w).program =
      placeWord s.program s.fetchPosition (BitVec.ofNat 16 (w % 2 ^ nbits)) := rfl

end Sys2Proof.Machine
end

