-- ==== Sys2Proof/Laws/Ops.lean ====
section
/-! SUPPORT. What each shared operation can do, said once: later proofs cite these and unfold nothing. -/

namespace Sys2Proof.Machine

/-! ### Operands -/

theorem readSlot_of_lt {n : Nat} (x : List (Word n)) (k : Nat) (h : k < x.length) : readSlot x k = x[k] := by
  simp [readSlot, h]

theorem readSlot_of_length_le {n : Nat} (x : List (Word n)) (k : Nat) (h : x.length ≤ k) : readSlot x k = 0 := by
  simp [readSlot, h]

/-- Operands read only the first eight slots (10_state.md R22). -/
theorem operandValue_congr {n : Nat} (x y : List (Word n)) (h : ∀ k < 8, readSlot x k = readSlot y k)
    (sel : Selector) : operandValue x sel = operandValue y sel := by
  cases sel with
  | imm _ _ => rfl
  | slot _ k => exact h k.toNat k.isLt

theorem consumedSlot_lt (sel : Selector) (k : Nat) (h : k ∈ consumedSlot sel) : k < 8 := by
  cases sel with
  | imm _ _ => simp [consumedSlot] at h
  | slot c i =>
    cases c with
    | false => simp [consumedSlot] at h
    | true =>
      have : k = i.toNat := by simpa [consumedSlot] using h
      omega

theorem mem_consumedSet (a b : Selector) (k : Nat) :
    k ∈ consumedSet a b ↔ k ∈ consumedSlot a ∨ k ∈ consumedSlot b := by
  by_cases hk : k ∈ consumedSlot a <;> simp [consumedSet, hk]

/-! ### The rebuild -/

theorem length_survivors_le {n : Nat} (scanLen : Nat) (ks : List Nat) (x : List (Word n)) :
    (survivors scanLen ks x).length ≤ scanLen := by
  simpa [survivors] using List.length_filter_le (fun i => !ks.contains i) (List.range scanLen)

/-- The survivors depend on the scanned slots only (40_datapath.md R89). -/
theorem survivors_congr {n : Nat} (scanLen : Nat) (ks : List Nat) (x y : List (Word n))
    (h : ∀ k < scanLen, readSlot x k = readSlot y k) : survivors scanLen ks x = survivors scanLen ks y := by
  simp only [survivors]
  refine List.map_congr_left fun k hk => h k ?_
  simpa using (List.mem_filter.mp hk).1

@[simp] theorem length_zeroFill {n : Nat} (cap : Nat) (out : List (Word n)) (h : out.length ≤ cap) :
    (zeroFill cap out).length = cap := by
  simp [zeroFill]; omega

/-- Placement (40_datapath.md R91): inside `out` the new stack is `out`, beyond it zero. -/
theorem readSlot_zeroFill {n : Nat} (cap : Nat) (out : List (Word n)) (j : Nat) :
    readSlot (zeroFill cap out) j = readSlot out j := by
  simp only [readSlot, zeroFill, List.getD_eq_getElem?_getD, List.getElem?_append, List.getElem?_replicate]
  split
  · rfl
  · next h =>
    rw [List.getElem?_eq_none (by omega)]
    split <;> rfl

theorem length_produced_le {n : Nat} (scanLen : Nat) (d : Dest) (a b : Selector) (r : Word n) (x : List (Word n)) :
    (produced scanLen d a b r x).length ≤ scanLen + 1 := by
  have := length_survivors_le scanLen (consumedSet a b) x
  simp only [produced, pushed, List.length_append]
  split <;> simp <;> omega

/-! ### The shared step -/

/-- Everything `runAlu` can do: the reserved destination, the overflow, or the committed state. -/
theorem runAlu_cases (s : State) (w : InstrWord) (d : Dest) (a b : Selector)
    (alu : Word s.cfg.xlen → Word s.cfg.xlen → Word s.cfg.xlen) :
    (d = .reserved ∧ runAlu s w d a b alu = .fault (.reservedDestination w)) ∨
    (d ≠ .reserved ∧
      s.cfg.stackCap < (produced s.cfg.scanLen d a b (alu (operandValue s.x a) (operandValue s.x b)) s.x).length ∧
      runAlu s w d a b alu = .fault (.stackOverflow
        (produced s.cfg.scanLen d a b (alu (operandValue s.x a) (operandValue s.x b)) s.x).length)) ∨
    (d ≠ .reserved ∧
      (produced s.cfg.scanLen d a b (alu (operandValue s.x a) (operandValue s.x b)) s.x).length ≤ s.cfg.stackCap ∧
      runAlu s w d a b alu = .next (s.commit d (operandValue s.x a) (operandValue s.x b)
        (alu (operandValue s.x a) (operandValue s.x b))
        (produced s.cfg.scanLen d a b (alu (operandValue s.x a) (operandValue s.x b)) s.x))) := by
  by_cases hd : d = .reserved
  · exact .inl ⟨hd, by simp [runAlu, hd, raiseFault]⟩
  · by_cases ho : s.cfg.stackCap <
      (produced s.cfg.scanLen d a b (alu (operandValue s.x a) (operandValue s.x b)) s.x).length
    · exact .inr (.inl ⟨hd, ho, by simp [runAlu, hd, ho, raiseFault]⟩)
    · exact .inr (.inr ⟨hd, by omega, by simp [runAlu, hd, ho]⟩)

/-- The ALU function of an operation (40_datapath.md R84). -/
def aluOf {n : Nat} : AluOp → Word n → Word n → Word n
  | .and => aluAnd
  | .or  => aluOr
  | .xor => aluXor
  | .slo => aluSlo
  | .slz => aluSlz

/-- Every instruction is the shared step with its own word and ALU function (40_datapath.md R81). -/
theorem exec_eq_runAlu (i : Instr) (s : State) :
    exec i s = runAlu s (encode s.cfg.opcodeMap i) i.dest i.a i.b (aluOf i.op) := by
  cases i <;> rfl

/-- The one inversion lemma for a successful instruction: the destination is a kind, the rebuild fits, and the next state
is the committed one. -/
theorem exec_next {i : Instr} {s t : State} (h : exec i s = .next t) :
    i.dest ≠ .reserved ∧
    (produced s.cfg.scanLen i.dest i.a i.b (aluOf i.op (operandValue s.x i.a) (operandValue s.x i.b)) s.x).length
      ≤ s.cfg.stackCap ∧
    t = s.commit i.dest (operandValue s.x i.a) (operandValue s.x i.b)
      (aluOf i.op (operandValue s.x i.a) (operandValue s.x i.b))
      (produced s.cfg.scanLen i.dest i.a i.b (aluOf i.op (operandValue s.x i.a) (operandValue s.x i.b)) s.x) := by
  rw [exec_eq_runAlu] at h
  rcases runAlu_cases s (encode s.cfg.opcodeMap i) i.dest i.a i.b (aluOf i.op) with ⟨_, e⟩ | ⟨_, _, e⟩ | ⟨hd, hl, e⟩
  · simp [e] at h
  · simp [e] at h
  · exact ⟨hd, hl, by simpa [e] using h.symm⟩

/-- The registers of the next state as numbers, free of the width's spelling: `pc`, the latches, and every slot. -/
theorem exec_next_toNat {i : Instr} {s t : State} (h : exec i s = .next t) :
    t.pc.toNat = (nextPc i.dest (aluOf i.op (operandValue s.x i.a) (operandValue s.x i.b)) s.pc).toNat ∧
    t.valA.toNat = (operandValue s.x i.a).toNat ∧
    t.valB.toNat = (operandValue s.x i.b).toNat ∧
    t.res.toNat = (aluOf i.op (operandValue s.x i.a) (operandValue s.x i.b)).toNat ∧
    ∀ k, (readSlot t.x k).toNat = (readSlot (produced s.cfg.scanLen i.dest i.a i.b
      (aluOf i.op (operandValue s.x i.a) (operandValue s.x i.b)) s.x) k).toNat := by
  obtain ⟨_, _, rfl⟩ := exec_next h
  exact ⟨rfl, rfl, rfl, rfl, fun k => congrArg BitVec.toNat (readSlot_zeroFill (n := s.cfg.xlen) _ _ k)⟩

/-- No instruction is refused. -/
theorem exec_ne_refused (i : Instr) (s : State) (r : Refusal) : exec i s ≠ .refused r := by
  rw [exec_eq_runAlu]
  rcases runAlu_cases s (encode s.cfg.opcodeMap i) i.dest i.a i.b (aluOf i.op) with ⟨_, e⟩ | ⟨_, _, e⟩ | ⟨_, _, e⟩ <;>
    simp [e]

end Sys2Proof.Machine
end

