-- ==== Sys2Proof/Laws/Step.lean ====
section
/-! SUPPORT. What a step of the machine can do, said once. -/

namespace Sys2Proof.Machine

/-- A successful `feedWord` is a successful instruction with the step number moved on. -/
theorem feedWord_next {w : InstrWord} {s t : State} (h : feedWord w s = .next t) :
    ∃ i u, decode s.cfg.opcodeMap w = .ok i ∧ exec i s = .next u ∧ t = u.countStep := by
  unfold feedWord engine at h
  cases hd : decode s.cfg.opcodeMap w with
  | error e => cases e; simp [hd, raiseFault] at h
  | ok i =>
    simp only [hd] at h
    cases he : exec i s with
    | next u => exact ⟨i, u, rfl, he, by simpa [he] using h.symm⟩
    | fault f => simp [he] at h
    | refused r => simp [he] at h

/-- The one inversion lemma for a step: the latch is clear, the environment has a word, the word decodes, its instruction
succeeds, and the step number moves on. -/
theorem step_next {s t : State} (h : step s = .next t) :
    s.fault = .none ∧ ∃ w i u, s.fetch = some w ∧ decode s.cfg.opcodeMap w = .ok i ∧ exec i s = .next u ∧
      t = u.countStep := by
  simp only [step, runStep] at h
  split at h
  · cases h
  · next hf =>
    refine ⟨by simpa using hf, ?_⟩
    cases hw : s.fetch with
    | none => simp [hw] at h
    | some w =>
      obtain ⟨i, u, hd, he, ht⟩ := feedWord_next (by simpa [hw] using h)
      exact ⟨w, i, u, rfl, hd, he, ht⟩

/-- A step with the latch clear is the feed of the next word, or the end of the run. -/
theorem step_of_fault_none {s : State} (h : s.fault = .none) :
    step s = match s.fetch with
      | none => .refused .runOver
      | some w => feedWord w s := by
  cases hw : s.fetch <;> simp [step, runStep, h, hw]

/-- A set latch takes no step (10_state.md R27). -/
theorem step_of_fault {s : State} (h : s.fault ≠ .none) : step s = .refused (.latched s.fault) := by
  simp [step, runStep, h]

/-- One more step at the front of a run. -/
theorem run_succ (n : Nat) (s : State) :
    Host.Core.run Sys2Proof.core (n + 1) s = match step s with
      | .next t => Host.Core.run Sys2Proof.core n t
      | .fault f => .fault f
      | .refused r => .refused r := by
  have e : Sys2Proof.core.step s = step s := rfl
  cases h : step s <;> rw [h] at e <;> simp only [Host.Core.run] <;> rw [e]

/-- A run that goes on begins with a step that goes on. -/
theorem run_succ_next {n : Nat} {s t : State} (h : Host.Core.run Sys2Proof.core (n + 1) s = .next t) :
    ∃ u, step s = .next u ∧ Host.Core.run Sys2Proof.core n u = .next t := by
  rw [run_succ] at h
  cases he : step s with
  | next u => exact ⟨u, rfl, by simpa [he] using h⟩
  | fault f => simp [he] at h
  | refused r => simp [he] at h

/-- An induction on a run, packaged once: what one step keeps, every run keeps. -/
theorem run_keeps {P : State → Prop} (hstep : ∀ s t, P s → step s = .next t → P t) :
    ∀ (n : Nat) (s t : State), P s → Host.Core.run Sys2Proof.core n s = .next t → P t := by
  intro n
  induction n with
  | zero => intro s t hs h; cases h; exact hs
  | succ n ih =>
    intro s t hs h
    obtain ⟨u, hu, hr⟩ := run_succ_next h
    exact ih u t (hstep s u hs hu) hr

end Sys2Proof.Machine
end

