-- ==== Sys2Proof/Laws/Clock.lean ====
section
/-! SUPPORT. What a clock edge and the engine can do, said once. -/

namespace Sys2Proof.Machine

/-- The engine on a word that decodes is its instruction's meaning. -/
theorem engine_of_decode {w : InstrWord} {s : State} {i : Instr} (h : decode s.cfg.opcodeMap w = .ok i) :
    engine w s = exec i s := by
  rw [engine, h]

/-- The engine on a word that does not decode. -/
theorem engine_of_reject {w v : InstrWord} {s : State} (h : decode s.cfg.opcodeMap w = .error (.invalidOpcode v)) :
    engine w s = .fault (.invalidOpcode v) := by
  rw [engine, h]; rfl

/-- An edge that takes a step: the next state, or the code in the latch (70_reset_and_hazards.md R143). -/
theorem clockEdge_enabled {p : Ports} {s : State} (hr : p.rst = false) (he : p.en = true) (hf : s.fault = .none) :
    clockEdge p s = match feedWord p.instr s with
      | .next t => t
      | .fault f => s.latchFault f
      | .refused _ => s := by
  cases hw : feedWord p.instr s <;> simp [clockEdge, hr, he, hf, hw]

/-- An edge without reset and without a step changes nothing (70_reset_and_hazards.md R143). -/
theorem clockEdge_idle {p : Ports} {s : State} (hr : p.rst = false) (h : p.en = false ∨ s.fault ≠ .none) :
    clockEdge p s = s := by
  rcases h with h | h <;> simp [clockEdge, hr, h]

/-- The driver of a running machine steps it with its next word (70_reset_and_hazards.md R145, R146). -/
theorem driverPorts_of_fetch {s : State} {w : InstrWord} (hf : s.fault = .none) (hw : s.fetch = some w) :
    s.driverPorts = ⟨false, true, w⟩ := by
  simp [State.driverPorts, hf, hw]

/-- The driver is idle once no word is left (70_reset_and_hazards.md R147). -/
theorem driverPorts_of_no_word {s : State} (hw : s.fetch = none) : s.driverPorts = idlePorts := by
  simp [State.driverPorts, hw]

/-- The driver is idle once a fault has ended the run (70_reset_and_hazards.md R147). -/
theorem driverPorts_of_fault {s : State} (hf : s.fault ≠ .none) : s.driverPorts = idlePorts := by
  simp [State.driverPorts, hf]

/-- The idle ports change nothing. -/
@[simp] theorem clockEdge_idlePorts (s : State) : clockEdge idlePorts s = s := clockEdge_idle rfl (.inl rfl)

/-- Everything a clock edge under the driver can do: what `step` does, with a fault's code going into the latch and no
change where no step is taken (10_state.md R27, 70_reset_and_hazards.md R143). -/
theorem tick_eq (s : State) : tick s = match step s with
    | .next t => t
    | .fault f => s.latchFault f
    | .refused _ => s := by
  by_cases hf : s.fault = .none
  · cases hw : s.fetch with
    | none => simp [tick, step_of_fault_none hf, driverPorts_of_no_word hw, hw]
    | some w =>
      cases he : feedWord w s <;>
        simp [tick, driverPorts_of_fetch hf hw, clockEdge, hf, step_of_fault_none, hw, he]
  · simp [tick, step_of_fault hf, driverPorts_of_fault hf]

/-- The word of the next step in the sequential environment (70_reset_and_hazards.md R145). -/
theorem fetch_sequential {s : State} (h : s.cfg.envFetch = .sequential) : s.fetch = s.program[s.stepNo]? := by
  simp [State.fetch, h]

/-- The word of the next step in the pc-indexed environment (70_reset_and_hazards.md R146). -/
theorem fetch_pcIndexed {s : State} (h : s.cfg.envFetch = .pcIndexed) : s.fetch = s.program[s.pc.toNat]? := by
  simp [State.fetch, h]

end Sys2Proof.Machine
end

