-- ==== Sys2Proof/Laws/Decode.lean ====
section
/-! SUPPORT. The small lemmas of the decoder and of the parts of an instruction. -/

namespace Sys2Proof

@[simp] theorem Instr.mk_op (op : AluOp) (d : Dest) (a b : Selector) : (Instr.mk op d a b).op = op := by
  cases op <;> rfl
@[simp] theorem Instr.mk_dest (op : AluOp) (d : Dest) (a b : Selector) : (Instr.mk op d a b).dest = d := by
  cases op <;> rfl
@[simp] theorem Instr.mk_a (op : AluOp) (d : Dest) (a b : Selector) : (Instr.mk op d a b).a = a := by
  cases op <;> rfl
@[simp] theorem Instr.mk_b (op : AluOp) (d : Dest) (a b : Selector) : (Instr.mk op d a b).b = b := by
  cases op <;> rfl

@[simp] theorem Dest.ofBits_bits (d : Dest) : Dest.ofBits d.bits = d := by cases d <;> rfl
@[simp] theorem Dest.bits_ofBits (v : BitVec 2) : (Dest.ofBits v).bits = v := by revert v; decide

theorem Dest.isKind_iff (d : Dest) : d.isKind = true ↔ d ≠ .reserved := by cases d <;> simp [Dest.isKind]

@[simp] theorem Selector.ofFields_parts (s : Selector) :
    Selector.ofFields s.immFlag s.consFlag s.number = s := by cases s <;> rfl
@[simp] theorem Selector.immFlag_ofFields (i c : Bool) (v : BitVec 3) : (Selector.ofFields i c v).immFlag = i := by
  cases i <;> rfl
@[simp] theorem Selector.consFlag_ofFields (i c : Bool) (v : BitVec 3) : (Selector.ofFields i c v).consFlag = c := by
  cases i <;> rfl
@[simp] theorem Selector.number_ofFields (i c : Bool) (v : BitVec 3) : (Selector.ofFields i c v).number = v := by
  cases i <;> rfl

/-- What the opcode lookup finds has that number. -/
theorem OpcodeMap.code_of_lookup {m : OpcodeMap} {c : BitVec 4} {op : AluOp} (h : m.lookup c = some op) :
    m.code op = c := by
  unfold OpcodeMap.lookup at h
  repeat' (split at h)
  all_goals first | (cases h; simp_all [OpcodeMap.code]) | cases h

/-- The lookup finds nothing exactly for an undefined opcode (30_encoding.md R70). -/
theorem OpcodeMap.lookup_eq_none {m : OpcodeMap} {c : BitVec 4} : m.lookup c = none ↔ ∀ op, m.code op ≠ c := by
  constructor
  · intro h op
    unfold OpcodeMap.lookup at h
    repeat' (split at h)
    all_goals first | (simp at h; done) | (cases op <;> simp_all [OpcodeMap.code, eq_comm])
  · intro h
    cases hl : m.lookup c with
    | none => rfl
    | some op => exact absurd (OpcodeMap.code_of_lookup hl) (h op)

/-- Everything a successful decoding says: a defined opcode, and the instruction of the fields. -/
theorem decode_ok {m : OpcodeMap} {w : InstrWord} {i : Instr} (h : decode m w = .ok i) :
    ∃ op, m.lookup (decodeFields w).opcode = some op ∧
      i = Instr.mk op (Dest.ofBits (decodeFields w).dest)
        (Selector.ofFields (decodeFields w).aImm (decodeFields w).aCons (decodeFields w).aVal)
        (Selector.ofFields (decodeFields w).bImm (decodeFields w).bCons (decodeFields w).bVal) := by
  unfold decode at h
  cases hl : m.lookup (decodeFields w).opcode with
  | none => simp [hl] at h
  | some op => exact ⟨op, rfl, by simpa [hl] using h.symm⟩

/-- Decoding fails only on an undefined opcode. -/
theorem decode_cases (m : OpcodeMap) (w : InstrWord) :
    ((∀ op, m.code op ≠ (decodeFields w).opcode) ∧ decode m w = .error (.invalidOpcode w)) ∨
    ∃ i, decode m w = .ok i := by
  cases hl : m.lookup (decodeFields w).opcode with
  | none => exact .inl ⟨OpcodeMap.lookup_eq_none.mp hl, by simp [decode, hl]⟩
  | some op => right; rw [decode, hl]; exact ⟨_, rfl⟩

end Sys2Proof
end

