-- ==== Sys2Proof/Laws/PerInstr.lean ====
section
/-! SUPPORT. The statements made per instruction: one lemma per constructor of Instr. -/

namespace Sys2Proof.Laws

namespace InstrParts

/-- An instruction is the operation, destination and selectors it is made of. -/
def Statement (i : Instr) : Prop := Instr.mk i.op i.dest i.a i.b = i

theorem and (d : Dest) (a b : Selector) : Statement (.and d a b) := rfl
theorem or (d : Dest) (a b : Selector) : Statement (.or d a b) := rfl
theorem xor (d : Dest) (a b : Selector) : Statement (.xor d a b) := rfl
theorem slo (d : Dest) (a b : Selector) : Statement (.slo d a b) := rfl
theorem slz (d : Dest) (a b : Selector) : Statement (.slz d a b) := rfl

end InstrParts

end Sys2Proof.Laws
end

