-- ==== Sys2Proof/Tests/Slice0.lean ====
section
/-! SUPPORT. Tests: the WellFormed smoke test, decoding of words written out from 30_encoding.md R61 to R66, one step per
instruction with the expected results of 95_test_vectors.md, and for each statement with hypotheses a witness that meets
them. -/

namespace Sys2Proof.Tests

open Sys2Proof Sys2Proof.Machine

/-! ## Helpers -/

/-- The old state of 95_test_vectors.md part 2.4: `pc` = 0x20 and slots 0x10 to 0x18. -/
def vectorState : State :=
  { State.launch defaultConfig [] with
    x := [0x10, 0x11, 0x12, 0x13, 0x14, 0x15, 0x16, 0x17, 0x18, 0, 0, 0, 0, 0, 0, 0], pc := 0x20 }

/-- The old state of D-T21 to D-T24: STACK_CAP = 8, SCAN_LEN = 8. -/
def fullScanState : State :=
  { State.launch fullScanConfig [] with x := [0x10, 0x11, 0x12, 0x13, 0x14, 0x15, 0x16, 0x17], pc := 0x20 }

/-- A state whose top two slots are `a` and `b`. -/
def topTwo (a b : Nat) : State :=
  { State.launch defaultConfig [] with
    x := [BitVec.ofNat 32 a, BitVec.ofNat 32 b, 0, 0, 0, 0, 0, 0, 0, 0, 0, 0, 0, 0, 0, 0] }

/-- The first slots, `pc` and the result of a next state, as numbers; nothing for any other outcome. -/
def shown (slots : Nat) : Host.Outcome State Fault Refusal → Option (List Nat × Nat × Nat)
  | .next t => some ((t.x.take slots).map BitVec.toNat, t.pc.toNat, t.res.toNat)
  | _ => none

/-- The fault of an outcome. -/
def faultOf : Host.Outcome State Fault Refusal → Option Fault
  | .fault f => some f
  | _ => none

/-! ## WellFormed -/

theorem test_wellFormed_refuses_reserved_destination :
    (Instr.and .reserved (.slot false 0) (.slot false 0)).wellFormed = false ∧
    (Instr.slz .reserved (.imm true 7) (.imm true 7)).wellFormed = false := by decide

theorem test_wellFormed_accepts_every_kind :
    (Instr.or .drop (.imm true 7) (.slot true 7)).wellFormed = true ∧
    (Instr.xor .push (.imm true 7) (.slot true 7)).wellFormed = true ∧
    (Instr.slo .writePc (.imm true 7) (.slot true 7)).wellFormed = true := by decide

/-! ## Decoding: words from 95_test_vectors.md 2.1, bit by bit from R61 and R62 -/

theorem test_decode_and : decode defaultOpcodeMap 0b0000010100101000#16 =
    .ok (.and .push (.slot true 0) (.slot true 1)) := by decide
theorem test_decode_or : decode defaultOpcodeMap 0b0001011000010101#16 =
    .ok (.or .push (.imm false 5) (.imm false 0)) := by decide
theorem test_decode_xor : decode defaultOpcodeMap 0b0010110100001010#16 =
    .ok (.xor .reserved (.slot true 2) (.slot true 0)) := by decide
theorem test_decode_slo : decode defaultOpcodeMap 0b0011101010010101#16 =
    .ok (.slo .writePc (.imm false 5) (.imm false 4)) := by decide
theorem test_decode_slz : decode defaultOpcodeMap 0b0100111010110101#16 =
    .ok (.slz .reserved (.imm false 5) (.imm false 5)) := by decide
theorem test_decode_zero_word : decode defaultOpcodeMap 0x0000#16 =
    .ok (.and .drop (.slot false 0) (.slot false 0)) := by decide
theorem test_decode_immediate_has_three_bits : decode defaultOpcodeMap 0x161B#16 =
    .ok (.or .push (.imm true 3) (.imm false 0)) := by decide
theorem test_decode_rejects_by_name :
    decode defaultOpcodeMap 0x5000#16 = .error (.invalidOpcode 0x5000#16) ∧
    decode defaultOpcodeMap 0xFFFF#16 = .error (.invalidOpcode 0xFFFF#16) := by decide
theorem test_decodeTableWord : decodeTableWord 16 0x3648 = some (.slo .push (.slot true 0) (.imm false 2)) ∧
    decodeTableWord 16 0x5000 = none := by decide
theorem test_assemble : encode defaultOpcodeMap (Asm.instr ⟨.slo, .push, .consumed 0, .imm 2⟩) = 0x3648#16 := by decide

/-! ## One step per instruction, 95_test_vectors.md parts 2.2 to 2.4 -/

theorem test_and_same_slot_consumed_once : shown 9 (engine 0x058C vectorState) =
    some ([0x14, 0x10, 0x11, 0x12, 0x13, 0x15, 0x16, 0x17, 0], 0x21, 0x14) := by decide
theorem test_and_source_example : shown 2 (engine 0x0528 (topTwo 0xF0F1 0x0F0F)) = some ([1, 0], 1, 1) := by decide
theorem test_or_dup_keeps_eight_old_slots : shown 10 (engine 0x1600 vectorState) =
    some ([0x10, 0x10, 0x11, 0x12, 0x13, 0x14, 0x15, 0x16, 0x17, 0], 0x21, 0x10) := by decide
theorem test_or_write_pc_consumes : shown 8 (engine 0x1A09 vectorState) =
    some ([0x10, 0x12, 0x13, 0x14, 0x15, 0x16, 0x17, 0], 0x11, 0x11) := by decide
theorem test_xor_two_consumed : shown 8 (engine 0x25AA vectorState) =
    some ([0x7, 0x10, 0x11, 0x13, 0x14, 0x16, 0x17, 0], 0x21, 0x7) := by decide
theorem test_xor_immediates : shown 1 (engine 0x2657 State.reset) = some ([5], 1, 5) := by decide
theorem test_slo_drop_latches_result : shown 9 (engine 0x32E7 vectorState) =
    some ([0x10, 0x11, 0x12, 0x13, 0x14, 0x15, 0x16, 0x17, 0], 0x21, 0xBFF) := by decide
theorem test_slo_amount_beyond_width : shown 1 (exec (.slo .push (.slot true 0) (.slot true 1)) (topTwo 7 37)) =
    some ([0xFFFFFFFF], 1, 0xFFFFFFFF) := by decide
theorem test_slz_reads_before_removal : shown 9 (engine 0x4520 vectorState) =
    some ([0x200000, 0x10, 0x12, 0x13, 0x14, 0x15, 0x16, 0x17, 0], 0x21, 0x200000) := by decide
theorem test_slz_amount_is_the_width : shown 1 (exec (.slz .push (.slot true 0) (.slot true 1)) (topTwo 1 32)) =
    some ([0], 1, 0) := by decide

/-! ## Witnesses: the hypotheses of each statement are met together -/

/-- `StepRunsTheDecodedInstruction`, and that the step completes: D-T6 as the first instruction after reset. -/
theorem witness_step_runs : (State.reset.withFetchWord 16 0x25AA).fault = .none ∧
    (State.reset.withFetchWord 16 0x25AA).fetch = some 0x25AA#16 ∧
    decode defaultOpcodeMap 0x25AA#16 = .ok (.xor .push (.slot true 2) (.slot true 5)) ∧
    shown 0 (step (State.reset.withFetchWord 16 0x25AA)) = some ([], 1, 0) := by decide

/-- `InvariantHoldsAtLaunch`, at the smallest admitted parameters. -/
theorem witness_admitted : Config.Admitted ⟨3, 8, 0, defaultOpcodeMap, .sequential⟩ ∧
    Config.Admitted ⟨14, 8, 8, defaultOpcodeMap, .pcIndexed⟩ ∧ Config.Admitted defaultConfig ∧
    Config.Admitted sourceCodeConfig ∧ Config.Admitted fullScanConfig := by decide

/-- The machine launched on the one-word program PUSHI 5. -/
def pushRun : State := State.launch defaultConfig [0x1615#16]

/-- `SequentialSupplyFollowsTheProgram`, both clauses: a launched run of one step. -/
theorem witness_sequential_supply : pushRun.cfg.envFetch = .sequential ∧ pushRun.fault = .none ∧
    pushRun.program.all (fun w => (decodeFields w).dest != 2) = true ∧
    shown 1 (runSteps 1 pushRun) = some ([5], 1, 5) := ⟨rfl, rfl, by decide, by decide⟩

/-- `SequentialRunEndsAfterItsLastWord`: all its hypotheses together. -/
theorem witness_sequential_run : pushRun.cfg.Admitted ∧ pushRun.cfg.scanLen < pushRun.cfg.stackCap ∧
    pushRun.cfg.envFetch = .sequential ∧ pushRun.fault = .none ∧ pushRun.stepNo ≤ pushRun.program.length ∧
    ∀ w ∈ pushRun.program, LegalWord pushRun.cfg.opcodeMap w := by
  refine ⟨by decide, by decide, rfl, rfl, by decide, ?_⟩
  intro w hw
  obtain rfl : w = 0x1615#16 := by simpa [pushRun, State.launch] using hw
  exact ⟨.or .push (.imm false 5) (.imm false 0), by decide, by decide⟩

/-- `PcIndexedSupplyFollowsThePc`, both clauses: `pc` at the last word and just past it. -/
theorem witness_pc_indexed :
    let s := State.launch { defaultConfig with envFetch := .pcIndexed } [0x1615#16]
    s.cfg.envFetch = .pcIndexed ∧ s.fault = .none ∧ s.pc.toNat < s.program.length ∧
    { s with pc := 1 }.program.length ≤ BitVec.toNat { s with pc := 1 }.pc := by decide

/-- `EveryInstructionDecodesBack`: the default map is injective. -/
theorem witness_injective : defaultOpcodeMap.Injective := by decide

/-- `EveryDecodedWordEncodesBack`. -/
theorem witness_decodes : decode defaultOpcodeMap 0x4BFF#16 = .ok (.slz .writePc (.imm true 7) (.imm true 7)) := by decide

/-- `UndefinedOpcodeRaisesInvalidOpcode`: 0x5000 is undefined, 0x4FFF is defined. -/
theorem witness_undefined_opcode : defaultOpcodeMap.and ≠ (decodeFields 0x5000#16).opcode ∧
    defaultOpcodeMap.or ≠ (decodeFields 0x5000#16).opcode ∧ defaultOpcodeMap.xor ≠ (decodeFields 0x5000#16).opcode ∧
    defaultOpcodeMap.slo ≠ (decodeFields 0x5000#16).opcode ∧ defaultOpcodeMap.slz ≠ (decodeFields 0x5000#16).opcode ∧
    defaultOpcodeMap.code .slz = (decodeFields 0x4FFF#16).opcode := by decide

/-- `ConsumeFlagIsIgnoredBesideAnImmediate`, both selectors: a legal word with both immediate flags set. -/
theorem witness_immediate_word : decode defaultOpcodeMap 0x1615#16 = .ok (.or .push (.imm false 5) (.imm false 0)) ∧
    (Instr.or .push (.imm false 5) (.imm false 0)).wellFormed = true ∧
    (0x1615#16).getLsbD 4 = true ∧ (0x1615#16).getLsbD 9 = true := by decide

/-- The five `...CompletesWithItsResult` statements, `RebuildFollowsTheScanLoop` and `PushPutsTheResultOnTop`: an admitted
machine, every kind of destination, no overflow, at the default parameters and at STACK_CAP = SCAN_LEN with a consume. -/
theorem witness_completes : vectorState.cfg.Admitted ∧ Dest.isKind .drop = true ∧ Dest.isKind .push = true ∧
    Dest.isKind .writePc = true ∧ ¬ Overflows vectorState.cfg .push (.slot false 0) (.imm false 0) ∧
    fullScanState.cfg.Admitted ∧ ¬ Overflows fullScanState.cfg .push (.slot true 7) (.imm false 0) ∧
    ¬ Overflows fullScanState.cfg .writePc (.slot false 7) (.imm false 0) := by decide

/-- `OperandsResolve`, `LatchesTakeOperandsAndResult` (first clause), `DropDiscardsTheResult`, `WritePcLoadsTheResult`,
`DeepSlotsDoNotSurvive` (third clause too), `EnvironmentIsOutOfReach`: a well-formed state, a push and a drop. -/
theorem witness_well_formed_step : vectorState.Wf ∧
    shown 0 (exec (.or .push (.slot false 7) (.imm false 7)) vectorState) = some ([], 0x21, 0x17) ∧
    shown 0 (exec (.or .drop (.slot false 7) (.imm false 7)) vectorState) = some ([], 0x21, 0x17) ∧
    consumedInScan vectorState.cfg.scanLen (.slot false 7) (.imm false 7) = [] ∧ 0 < vectorState.cfg.scanLen := by decide

/-- `DeepSlotsDoNotSurvive`, second clause: slot SCAN_LEN is non-zero after a push (D-T3). -/
theorem witness_deep_slot : (shown 9 (exec (.or .push (.slot false 0) (.imm false 0)) vectorState)).map
    (fun r => r.1[8]?) = some (some 0x17) := by decide

/-- `LatchesTakeOperandsAndResult` (second clause) and `FaultingEdgeOnlyLatchesTheCode`: a fault with the latch clear. -/
theorem witness_fault : vectorState.fault = .none ∧
    faultOf (engine 0xFFFF vectorState) = some (.invalidOpcode 0xFFFF) := by decide

/-- `PushedResultIsReadNext`: a push, then an instruction that reads slot 0 by both selectors. -/
theorem witness_push_then_read : State.reset.cfg.Admitted ∧
    (match exec (Asm.pushi 5).instr State.reset with
      | .next t => (shown 1 (exec (Asm.dup 0).instr t)).isSome
      | _ => false) = true := by decide

/-- `BitwiseOperandsCommute`: legal destination, a bit below the width, and the instructions complete. -/
theorem witness_bitwise : Dest.isKind .push = true ∧ 31 < vectorState.cfg.xlen ∧
    (shown 0 (exec (.and .push (.slot true 2) (.slot true 5)) vectorState)).isSome ∧
    (shown 0 (exec (.or .push (.slot true 2) (.slot true 5)) vectorState)).isSome ∧
    (shown 0 (exec (.xor .push (.slot true 2) (.slot true 5)) vectorState)).isSome := by decide

/-- `LargeShiftAmountsAreNotMasked`: the amount is exactly the width. -/
theorem witness_large_amount : (topTwo 1 32).cfg.Admitted ∧
    (topTwo 1 32).cfg.xlen ≤ (operandValue (topTwo 1 32).x (.slot true 1)).toNat ∧
    ¬ Overflows (topTwo 1 32).cfg .push (.slot true 0) (.slot true 1) := by decide

/-- `PseudoInstructionEffects`: every pseudo-instruction completes. -/
theorem witness_pseudo : 0 < vectorState.cfg.scanLen ∧
    [Asm.pushi 7, Asm.dup 7, Asm.pop, Asm.jmpi 7, Asm.jmps, Asm.nopi].all
      (fun l => (shown 0 (exec l.instr vectorState)).isSome) = true := by decide

/-- `OverflowExactlyByTheLengthFormula`, both sides of the capacity (D-T21, D-T22), `FaultPriority` (last two clauses) and
`OverflowReachability` (second clause). -/
theorem witness_overflow : fullScanState.cfg.Admitted ∧ fullScanState.cfg.scanLen = fullScanState.cfg.stackCap ∧
    consumedInScan fullScanState.cfg.scanLen (.slot false 0) (.imm false 0) = [] ∧
    producedLength fullScanState.cfg.scanLen .push (.slot false 0) (.imm false 0) = 9 ∧
    producedLength fullScanState.cfg.scanLen .drop (.slot false 0) (.imm false 0) = 8 ∧
    Overflows fullScanState.cfg .push (.slot false 0) (.imm false 0) ∧
    faultOf (engine 0x1600 fullScanState) = some (.stackOverflow 9) ∧
    shown 8 (engine 0x1200 fullScanState) =
      some ([0x10, 0x11, 0x12, 0x13, 0x14, 0x15, 0x16, 0x17], 0x21, 0x10) := by decide

/-- `ReservedDestinationStops` and `FaultPriority` (first two clauses): F2 and F3 of 95_test_vectors.md 2.5. -/
theorem witness_fault_priority : (Instr.or .reserved (.imm false 1) (.imm false 0)).dest = .reserved ∧
    decode defaultOpcodeMap 0x1E11#16 = .ok (.or .reserved (.imm false 1) (.imm false 0)) ∧
    (decodeFields 0x1E11#16).dest = 3 ∧ (decodeFields 0x1611#16).dest ≠ 3 ∧
    faultOf (engine 0x1E11 State.reset) = some (.reservedDestination 0x1E11) ∧
    faultOf (engine 0xFFFF State.reset) = some (.invalidOpcode 0xFFFF) := by decide

/-- `LegalWordsRunAtTheDefaults`: the last legal word runs and the first illegal word above it does not; and
`OverflowExactlyByTheLengthFormula`, last clause. -/
theorem witness_default_words : vectorState.cfg = defaultConfig ∧ vectorState.cfg.scanLen = 8 ∧
    vectorState.cfg.stackCap = 16 ∧ (shown 0 (engine 0x4BFF vectorState)).isSome ∧
    shown 0 (engine 0x4C00 vectorState) = none := by decide

/-- `OverflowReachability`, first clause: SCAN_LEN below STACK_CAP, at the source code's pair. -/
theorem witness_no_overflow : sourceCodeConfig.scanLen < sourceCodeConfig.stackCap := by decide

/-- `OnlyResetLeavesALatchedFault`, each clause: a latched state under enabled and idle edges, and an edge with reset. -/
theorem witness_latched : (vectorState.latchFault (.invalidOpcode 0xFFFF)).fault ≠ .none ∧
    (∀ p ∈ [Ports.mk false true 0xFFFF, Ports.mk false false 0], p.rst = false) ∧
    (Ports.mk false false 0).en = false ∧ (Ports.mk true true 0xFFFF).rst = true ∧
    (clockEdge (Ports.mk false true 0xFFFF) vectorState).outPorts.fault = 1 := by decide

/-- `StepKeepsInvariant`: an invariant state whose step completes. -/
theorem witness_invariant_step : (State.reset.withFetchWord 16 0x1615).Inv ∧ vectorState.Inv ∧
    (shown 1 (step (State.reset.withFetchWord 16 0x1615))).isSome := by decide

/-- `EveryRunKeepsTheStackShape`, both clauses: a run of one step from launch. -/
theorem witness_run_from_launch : sourceCodeConfig.Admitted ∧
    (shown 1 (step (State.launch sourceCodeConfig [0x1615#16]))).isSome ∧
    (shown 1 (step (State.launch defaultConfig [0x1615#16]))).isSome := by decide

/-- `DeepSlotsAreInvisible`: two stacks that differ in slot 8 and agree below it. -/
theorem witness_deep_slots_differ :
    let x' : List (Word vectorState.cfg.xlen) := [0x10, 0x11, 0x12, 0x13, 0x14, 0x15, 0x16, 0x17]
    vectorState.cfg.Admitted ∧ (readSlot vectorState.x 8).toNat ≠ (readSlot x' 8).toNat ∧
    ∀ k < 8, (readSlot x' k).toNat = (readSlot vectorState.x k).toNat := by decide

/-- `LatchesAreNotLoadBearing` (second clause) and `PcIsInvisibleToSequentialRuns`: a step count above zero and the
sequential environment. -/
theorem witness_sequential : 0 < 1 ∧ vectorState.cfg.envFetch = .sequential := by decide

/-- `EnableStaysLowAfterTheEnd`, each clause: a run with a word left, one without, and one whose step faults. -/
theorem witness_enable : (State.reset.withFetchWord 16 0x1615).fault = .none ∧
    (State.reset.withFetchWord 16 0x1615).driverPorts = ⟨false, true, 0x1615⟩ ∧
    step State.reset = .refused .runOver ∧
    faultOf (step (State.reset.withFetchWord 16 0xFFFF)) = some (.invalidOpcode 0xFFFF) ∧
    (tick (State.reset.withFetchWord 16 0xFFFF)).driverPorts.en = false :=
  ⟨by decide, by decide, rfl, by decide, by decide⟩

end Sys2Proof.Tests
end

section

namespace Sys2Proof.Machine

/-- The CORE is never refused: an undefined opcode faults (60_exceptions.md R121), and no instruction is refused. -/
theorem engine_ne_refused (w : InstrWord) (s : State) (r : Refusal) : engine w s ≠ .refused r := by
  rcases decode_cases s.cfg.opcodeMap w with ⟨_, hreject⟩ | ⟨i, hdecode⟩
  · simp [engine_of_reject hreject]
  · rw [engine_of_decode hdecode]
    exact exec_ne_refused i s r

/-- Settles O35, by the three outcomes of the engine: a next state and a fault exclude each other, and a refusal is
impossible. -/
theorem engineAnswersNextOrFault : Obligations.EngineAnswersNextOrFault := by
  intro w s
  cases h : engine w s with
  | next t => exact .inl ⟨⟨t, rfl⟩, by simp⟩
  | fault f => exact .inr ⟨⟨f, rfl⟩, by simp⟩
  | refused r => exact absurd h (engine_ne_refused w s r)

end Sys2Proof.Machine

end

section

namespace Sys2Proof.Machine

/-! ### The shape of the stack: launch, instruction, step, run -/

/-- Nothing but zeros reads as zero, inside the list and beyond it. -/
@[simp] theorem readSlot_replicate_zero {n : Nat} (cap j : Nat) :
    readSlot (List.replicate cap (0 : Word n)) j = 0 := by
  simp only [readSlot, List.getD_eq_getElem?_getD, List.getElem?_replicate]
  split <;> rfl

/-- The launch state of an admitted machine meets the invariant (10_state.md R32). -/
theorem launch_inv {c : Config} (p : List InstrWord) (hc : c.Admitted) : (State.launch c p).Inv :=
  ⟨⟨hc, List.length_replicate⟩, fun j _ _ => readSlot_replicate_zero c.stackCap j⟩

/-- The slots of an invariant state above SCAN_LEN are zero whether or not they exist. -/
theorem readSlot_eq_zero_of_inv {s : State} (hs : s.Inv) {j : Nat} (hj : s.cfg.scanLen < j) :
    readSlot s.x j = 0 := by
  obtain ⟨_, hdeep⟩ := hs
  by_cases hlen : j < s.x.length
  · exact hdeep j hlen hj
  · exact readSlot_of_length_le _ _ (by omega)

/-- No instruction changes the parameters (10_state.md R29). -/
theorem exec_next_cfg {i : Instr} {s t : State} (h : exec i s = .next t) : t.cfg = s.cfg := by
  obtain ⟨_, _, rfl⟩ := exec_next h
  rfl

/-- A successful instruction leaves exactly STACK_CAP slots, however many there were (40_datapath.md R91, R95). -/
theorem exec_next_length {i : Instr} {s t : State} (h : exec i s = .next t) : t.x.length = s.cfg.stackCap := by
  obtain ⟨_, hfits, rfl⟩ := exec_next h
  exact length_zeroFill _ _ hfits

/-- A slot that the rebuild does not reach, whatever the result, is zero (40_datapath.md R91). -/
theorem exec_next_readSlot_eq_zero {i : Instr} {s t : State} (h : exec i s = .next t) {j : Nat}
    (hj : ∀ r, (produced s.cfg.scanLen i.dest i.a i.b r s.x).length ≤ j) : readSlot t.x j = 0 := by
  obtain ⟨_, _, rfl⟩ := exec_next h
  rw [State.commit_x]
  exact (readSlot_zeroFill _ _ j).trans (readSlot_of_length_le _ _ (hj _))

/-- Every slot above SCAN_LEN is zero after a successful instruction, whatever the old stack held (10_state.md R24). -/
theorem exec_next_deep_slot_eq_zero {i : Instr} {s t : State} (h : exec i s = .next t) {j : Nat}
    (hj : s.cfg.scanLen < j) : readSlot t.x j = 0 :=
  exec_next_readSlot_eq_zero h fun r => (length_produced_le s.cfg.scanLen i.dest i.a i.b r s.x).trans hj

/-- A successful instruction establishes the invariant on every admitted machine: the old stack need not meet it. -/
theorem exec_next_inv {i : Instr} {s t : State} (hc : s.cfg.Admitted) (h : exec i s = .next t) : t.Inv := by
  have hcfg := exec_next_cfg h
  have hlen := (exec_next_length h).trans (congrArg Config.stackCap hcfg).symm
  exact ⟨⟨by rwa [hcfg], hlen⟩, fun j _ hj => exec_next_deep_slot_eq_zero h (by rwa [hcfg] at hj)⟩

/-- The invariant does not speak of the step number. -/
theorem countStep_inv {s : State} (h : s.Inv) : s.countStep.Inv := h

/-- No step changes the parameters. -/
theorem step_next_cfg {s t : State} (h : step s = .next t) : t.cfg = s.cfg := by
  obtain ⟨_, _, i, u, _, _, hexec, rfl⟩ := step_next h
  exact (State.countStep_cfg u).trans (exec_next_cfg hexec)

/-- A successful step establishes the invariant on every admitted machine. -/
theorem step_next_inv {s t : State} (hc : s.cfg.Admitted) (h : step s = .next t) : t.Inv := by
  obtain ⟨_, _, i, u, _, _, hexec, rfl⟩ := step_next h
  exact countStep_inv (exec_next_inv hc hexec)

/-- Every state of a run from launch has the launched parameters and meets the invariant. -/
theorem run_launch_inv {n : Nat} {c : Config} {p : List InstrWord} {t : State} (hc : c.Admitted)
    (h : runSteps n (State.launch c p) = .next t) : t.cfg = c ∧ t.Inv := by
  refine run_keeps (P := fun s => s.cfg = c ∧ s.Inv) ?_ n _ t ⟨rfl, launch_inv p hc⟩ h
  rintro s u ⟨rfl, ⟨hadmitted, _⟩, _⟩ hstep
  exact ⟨step_next_cfg hstep, step_next_inv hadmitted hstep⟩

/-- Settles O44: a step establishes the invariant from the admitted parameters alone. -/
theorem stepKeepsInvariant : Obligations.StepKeepsInvariant := by
  rintro s t ⟨⟨hadmitted, _⟩, _⟩ hstep
  exact step_next_inv hadmitted hstep

/-- Settles O45, by the invariant along the run; the default machine is admitted. -/
theorem everyRunKeepsTheStackShape : Obligations.EveryRunKeepsTheStackShape := by
  constructor
  · intro n c p t hc h
    obtain ⟨rfl, hinv⟩ := run_launch_inv hc h
    have ⟨⟨_, hlen⟩, _⟩ := hinv
    exact ⟨hlen, hinv⟩
  · intro n p t h
    obtain ⟨hcfg, hinv⟩ := run_launch_inv (by decide) h
    have ⟨⟨_, hlen⟩, _⟩ := hinv
    have hcap : t.cfg.stackCap = 16 := congrArg Config.stackCap hcfg
    have hscan : t.cfg.scanLen = 8 := congrArg Config.scanLen hcfg
    exact ⟨hlen.trans hcap, fun j hj => readSlot_eq_zero_of_inv hinv (by omega)⟩

/-- Settles O1: each register's reset value, and the slots by reading a list of zeros. -/
theorem launchStateIsAllZero : Obligations.LaunchStateIsAllZero := by
  intro c p
  exact ⟨rfl, rfl, List.length_replicate, fun i _ => readSlot_replicate_zero c.stackCap i,
    rfl, rfl, rfl, rfl, rfl, rfl, rfl⟩

/-- Settles O2: reset is the launch of the default machine, which is admitted. -/
theorem invariantHoldsAtLaunch : Obligations.InvariantHoldsAtLaunch :=
  ⟨fun _ p hc => launch_inv p hc, launch_inv [] (by decide)⟩

/-! ### What the rebuild makes of the scanned slots -/

/-- A consumed slot of the scan range does not survive, so there are fewer survivors than scanned slots. -/
theorem length_survivors_lt {n : Nat} {scanLen : Nat} {a b : Selector} (x : List (Word n))
    (h : consumedInScan scanLen a b ≠ []) : (survivors scanLen (consumedSet a b) x).length < scanLen := by
  obtain ⟨k, hk⟩ := List.exists_mem_of_ne_nil _ h
  obtain ⟨hmem, hlt⟩ : k ∈ consumedSet a b ∧ k < scanLen := by simpa [consumedInScan] using hk
  have : ((List.range scanLen).filter (fun i => !(consumedSet a b).contains i)).length < (List.range scanLen).length :=
    List.length_filter_lt_length_iff_exists.mpr ⟨k, by simpa using hlt, by simpa using hmem⟩
  simpa [survivors] using this

/-- With nothing consumed in the scan range every scanned slot survives (40_datapath.md R89). -/
theorem survivors_of_nothing_consumed {n : Nat} {scanLen : Nat} {a b : Selector} (x : List (Word n))
    (h : consumedInScan scanLen a b = []) :
    survivors scanLen (consumedSet a b) x = (List.range scanLen).map (readSlot x) := by
  have hkept : ∀ k ∈ consumedSet a b, scanLen ≤ k := by simpa [consumedInScan] using h
  rw [survivors, List.filter_eq_self.mpr]
  intro i hi
  have : i ∉ consumedSet a b := fun hmem => absurd (hkept i hmem) (by simpa using hi)
  simpa using this

/-- The rebuild goes beyond SCAN_LEN entries only for a push that consumes nothing in the scan range. -/
theorem length_produced_le_scanLen {n : Nat} {scanLen : Nat} {d : Dest} {a b : Selector} (r : Word n)
    (x : List (Word n)) (h : ¬ (d = .push ∧ consumedInScan scanLen a b = [])) :
    (produced scanLen d a b r x).length ≤ scanLen := by
  by_cases hd : d = .push
  · have := length_survivors_lt x fun hnil => h ⟨hd, hnil⟩
    simp only [produced, pushed, hd, if_true, List.length_append, List.length_singleton]
    omega
  · simpa [produced, pushed, hd] using length_survivors_le scanLen (consumedSet a b) x

/-- A push that consumes nothing in the scan range moves every scanned slot one place down. -/
theorem readSlot_produced_push {n : Nat} {scanLen : Nat} {a b : Selector} (r : Word n) (x : List (Word n))
    (h : consumedInScan scanLen a b = []) {k : Nat} (hk : k < scanLen) :
    readSlot (produced scanLen .push a b r x) (k + 1) = readSlot x k := by
  simp [produced, pushed, survivors_of_nothing_consumed x h, readSlot, hk]

/-- Such a push moves the last scanned slot to SCAN_LEN (10_state.md R24). -/
theorem readSlot_produced_push_last {n : Nat} {scanLen : Nat} {a b : Selector} (r : Word n) (x : List (Word n))
    (h : consumedInScan scanLen a b = []) (hpos : 0 < scanLen) :
    readSlot (produced scanLen .push a b r x) scanLen = readSlot x (scanLen - 1) := by
  have hmoved := readSlot_produced_push r x h (Nat.sub_lt hpos one_pos)
  rwa [Nat.sub_one_add_one_eq_of_pos hpos] at hmoved

/-- Settles O34: above SCAN_LEN nothing is produced, at SCAN_LEN only by a push that consumes nothing in the scan range,
and that push moves slot SCAN_LEN - 1 there. -/
theorem deepSlotsDoNotSurvive : Obligations.DeepSlotsDoNotSurvive := by
  intro s t i _ h
  refine ⟨fun j hj => exec_next_deep_slot_eq_zero h hj, fun hne => ?_, fun hpush hnone hpos => ?_⟩
  · by_contra hcase
    exact hne (exec_next_readSlot_eq_zero h fun r => length_produced_le_scanLen r s.x hcase)
  · obtain ⟨_, _, _, _, hslots⟩ := exec_next_toNat h
    rw [hslots, hpush]
    exact congrArg BitVec.toNat (readSlot_produced_push_last _ s.x hnone hpos)

end Sys2Proof.Machine

end

section

namespace Sys2Proof.Machine

/-! ### The hardware rendering -/

/-- A fault of the engine is the fault of the step that feeds it the word. -/
theorem feedWord_of_fault {w : InstrWord} {s : State} {f : Fault} (h : engine w s = .fault f) :
    feedWord w s = .fault f := by
  rw [feedWord, h]

/-- The code of a fault is not the code of a clear latch (60_exceptions.md R120). -/
theorem Fault.code_bits_ne_zero (f : Fault) : f.code.bits ≠ 0 := by
  cases f <;> simp [Fault.code, FaultCode.bits]

/-- Settles O40: the enabled edge of a faulting word, and the table of codes. -/
theorem faultingEdgeOnlyLatchesTheCode : Obligations.FaultingEdgeOnlyLatchesTheCode := by
  refine ⟨fun s w f hclear hfault => ⟨?_, f.code_bits_ne_zero⟩, fun _ _ => ⟨rfl, rfl, rfl, rfl⟩⟩
  rw [clockEdge_enabled rfl rfl hclear, feedWord_of_fault hfault]
  rfl

/-- A sequence of edges none of which changes the state leaves it as it is. -/
theorem clockEdges_fixed {s : State} {ps : List Ports} (h : ∀ p ∈ ps, clockEdge p s = s) :
    ps.foldl (fun t p => clockEdge p t) s = s := by
  induction ps with
  | nil => rfl
  | cons p ps ih =>
    rw [List.foldl_cons, h p List.mem_cons_self]
    exact ih fun q hq => h q (List.mem_cons_of_mem p hq)

/-- An edge with reset restarts, whatever the other ports are (70_reset_and_hazards.md R141). -/
theorem clockEdge_reset {p : Ports} {s : State} (hr : p.rst = true) : clockEdge p s = s.restart := by
  simp [clockEdge, hr]

/-- Settles O41: without reset an edge is idle when a fault is latched or `en` is clear; with reset it restarts. -/
theorem onlyResetLeavesALatchedFault : Obligations.OnlyResetLeavesALatchedFault := by
  refine ⟨fun s ps hlatched hrst => ⟨?_, step_of_fault hlatched⟩, fun s ps hidle => ?_, fun s p hrst => ?_⟩
  · exact clockEdges_fixed fun p hp => clockEdge_idle (hrst p hp) (.inr hlatched)
  · refine clockEdges_fixed fun p hp => ?_
    obtain ⟨hrst, hen⟩ := hidle p hp
    exact clockEdge_idle hrst (.inl hen)
  · exact (clockEdge_reset hrst).trans s.restart_eq_launch

/-- A state that an edge under the driver leaves as it is stays so under any number of them. -/
theorem ticks_fixed {s : State} (h : tick s = s) (n : Nat) : ticks n s = s := by
  induction n with
  | zero => rfl
  | succ n ih => rw [ticks, h, ih]

/-- The first edge of a step that goes on gives the step's next state. -/
theorem ticks_of_next {s u : State} (h : step s = .next u) (n : Nat) : ticks (n + 1) s = ticks n u := by
  rw [ticks, tick_eq, h]

/-- Where no step is taken the driver's edges change nothing (70_reset_and_hazards.md R147). -/
theorem ticks_of_refused {s : State} {r : Refusal} (h : step s = .refused r) (n : Nat) : ticks n s = s :=
  ticks_fixed (by rw [tick_eq, h]) n

/-- The first edge of a faulting step latches the code; the ones after it change nothing (10_state.md R27). -/
theorem ticks_of_fault {s : State} {f : Fault} (h : step s = .fault f) (n : Nat) :
    ticks (n + 1) s = s.latchFault f := by
  have hlatched : step (s.latchFault f) = .refused (.latched f.code) := step_of_fault f.code_ne_none
  rw [ticks, tick_eq, h]
  exact ticks_of_refused hlatched n

/-- A run whose first step goes on is the run from the next state. -/
theorem runSteps_of_next {s u : State} (h : step s = .next u) (n : Nat) : runSteps (n + 1) s = runSteps n u := by
  have hrun := run_succ n s
  rwa [h] at hrun

/-- A run whose first step faults is that fault. -/
theorem runSteps_of_fault {s : State} {f : Fault} (h : step s = .fault f) (n : Nat) :
    runSteps (n + 1) s = .fault f := by
  have hrun := run_succ n s
  rwa [h] at hrun

/-- A run that takes no first step is refused as the step is. -/
theorem runSteps_of_refused {s : State} {r : Refusal} (h : step s = .refused r) (n : Nat) :
    runSteps (n + 1) s = .refused r := by
  have hrun := run_succ n s
  rwa [h] at hrun

/-- Settles O42, by induction on the number of edges: the first edge does what the first step does, and a step that
faults or is not taken ends both the run and the changes. -/
theorem clockedMachineRefinesTheRun : Obligations.ClockedMachineRefinesTheRun := by
  intro n
  induction n with
  | zero => intro s; rfl
  | succ n ih =>
    intro s
    cases hstep : step s with
    | next u =>
      have hu := ih u
      have hrun := runSteps_of_next hstep
      rw [hrun, ticks_of_next hstep]
      cases hn : runSteps n u with
      | next t => simpa only [hn] using hu
      | fault f =>
        obtain ⟨m, hm, t, ht, hend⟩ := by simpa only [hn] using hu
        exact ⟨m + 1, Nat.succ_lt_succ hm, t, (hrun m).trans ht, hend⟩
      | refused r =>
        obtain ⟨m, hm, t, ht, hend⟩ := by simpa only [hn] using hu
        exact ⟨m + 1, Nat.succ_lt_succ hm, t, (hrun m).trans ht, hend⟩
    | fault f =>
      rw [runSteps_of_fault hstep]
      exact ⟨0, n.succ_pos, s, rfl, hstep, ticks_of_fault hstep n⟩
    | refused r =>
      rw [runSteps_of_refused hstep]
      exact ⟨0, n.succ_pos, s, rfl, hstep, ticks_of_refused hstep (n + 1)⟩

end Sys2Proof.Machine

end

section

namespace Sys2Proof.Machine

/-! ### What a step does not read -/

/-- A step reads the latch, the next word, the opcode map and what the instructions do, and nothing else. -/
theorem step_congr {s s' : State} (hfault : s'.fault = s.fault) (hfetch : s'.fetch = s.fetch)
    (hmap : s'.cfg.opcodeMap = s.cfg.opcodeMap) (hexec : ∀ i, exec i s' = exec i s) : step s' = step s := by
  simp only [step, runStep, feedWord, engine, hfault, hfetch, hmap, hexec]

/-- Runs of at least one step whose first steps are alike are alike. -/
theorem runSteps_congr_step {s s' : State} (h : step s' = step s) (n : Nat) :
    runSteps (n + 1) s' = runSteps (n + 1) s := by
  have hrun := run_succ n s
  rw [← h] at hrun
  exact (run_succ n s').trans hrun.symm

/-- An instruction overwrites all three diagnostic latches and reads none (10_state.md R26). -/
theorem exec_set_latches (i : Instr) (s : State) (valA valB res : Word s.cfg.xlen) :
    exec i { s with valA := valA, valB := valB, res := res } = exec i s := by
  rw [exec_eq_runAlu, exec_eq_runAlu]
  rfl

/-- A step does not read the diagnostic latches. -/
theorem step_set_latches (s : State) (valA valB res : Word s.cfg.xlen) :
    step { s with valA := valA, valB := valB, res := res } = step s :=
  step_congr rfl rfl rfl fun i => exec_set_latches i s valA valB res

/-- Settles O47: before the first step the latches are forgotten, and the first step does not read them. -/
theorem latchesAreNotLoadBearing : Obligations.LatchesAreNotLoadBearing := by
  intro n s valA valB res
  cases n with
  | zero => exact ⟨rfl, fun h => absurd h (lt_irrefl 0)⟩
  | succ n =>
    have hrun : runSteps (n + 1) { s with valA := valA, valB := valB, res := res } = runSteps (n + 1) s :=
      runSteps_congr_step (step_set_latches s valA valB res) n
    exact ⟨by rw [hrun], fun _ => hrun⟩

/-- With SCAN_LEN at most 8 an instruction reads the first eight slots of the stack only (10_state.md R22,
40_datapath.md R89). -/
theorem exec_set_stack (i : Instr) (s : State) (x' : List (Word s.cfg.xlen)) (hscan : s.cfg.scanLen ≤ 8)
    (hx : ∀ k < 8, readSlot x' k = readSlot s.x k) : exec i { s with x := x' } = exec i s := by
  rw [exec_eq_runAlu, exec_eq_runAlu]
  simp only [runAlu, produced, operandValue_congr x' s.x hx,
    survivors_congr _ _ x' s.x fun k hk => hx k (hk.trans_le hscan)]
  rfl

/-- Settles O48: an admitted SCAN_LEN is at most 8. -/
theorem deepSlotsAreInvisible : Obligations.DeepSlotsAreInvisible := by
  intro s x' hc hx
  obtain ⟨_, _, hscan, _⟩ := hc
  exact step_congr rfl rfl rfl fun i => exec_set_stack i s x' (hscan.trans (min_le_left _ _)) hx

end Sys2Proof.Machine

end

section

namespace Sys2Proof.Machine

/-! ### What belongs to the environment -/

/-- No instruction changes the program, the step number or the fault latch (20_memory.md R51, 10_state.md R27). -/
theorem exec_next_environment {i : Instr} {s t : State} (h : exec i s = .next t) :
    t.program = s.program ∧ t.stepNo = s.stepNo ∧ t.fault = s.fault := by
  obtain ⟨_, _, rfl⟩ := exec_next h
  exact ⟨State.commit_program .., State.commit_stepNo .., State.commit_fault ..⟩

/-- Settles O46: a successful instruction commits nothing of the environment, and a step is an instruction taken with the
latch clear, after which only the step number moves. -/
theorem environmentIsOutOfReach : Obligations.EnvironmentIsOutOfReach := by
  refine ⟨fun s t i hexec => ⟨exec_next_cfg hexec, exec_next_environment hexec⟩, fun s t hstep => ?_⟩
  obtain ⟨hclear, _, i, u, _, _, hexec, rfl⟩ := step_next hstep
  obtain ⟨hprogram, hstepNo, hfault⟩ := exec_next_environment hexec
  exact ⟨step_next_cfg hstep, hprogram, congrArg (· + 1) hstepNo, hclear, hfault.trans hclear⟩

end Sys2Proof.Machine

end

section

namespace Sys2Proof

/-! ### The fields of a word as numbers (30_encoding.md R63, R73) -/

/-- A mask of `k` ones at bit `s`, moved down by `s`, is a division and a remainder. -/
theorem and_mask_shiftRight (x s k : Nat) : (x &&& (2 ^ k - 1) <<< s) >>> s = x / 2 ^ s % 2 ^ k := by
  rw [Nat.shiftRight_and_distrib, Nat.shiftLeft_shiftRight, Nat.and_two_pow_sub_one_eq_mod, Nat.shiftRight_eq_div_pow]

theorem toNat_extractLsb' (w : InstrWord) (s k : Nat) : (w.extractLsb' s k).toNat = w.toNat / 2 ^ s % 2 ^ k := by
  rw [BitVec.extractLsb'_toNat, Nat.shiftRight_eq_div_pow]

theorem toNat_getLsbD (w : InstrWord) (s : Nat) : (w.getLsbD s).toNat = w.toNat / 2 ^ s % 2 ^ 1 :=
  Nat.toNat_testBit w.toNat s

section decodeFields
variable (w : InstrWord)

theorem toNat_decodeFields_opcode : (decodeFields w).opcode.toNat = w.toNat / 2 ^ 12 % 2 ^ 4 := toNat_extractLsb' w 12 4
theorem toNat_decodeFields_dest : (decodeFields w).dest.toNat = w.toNat / 2 ^ 10 % 2 ^ 2 := toNat_extractLsb' w 10 2
theorem toNat_decodeFields_bImm : (decodeFields w).bImm.toNat = w.toNat / 2 ^ 9 % 2 ^ 1 := toNat_getLsbD w 9
theorem toNat_decodeFields_bCons : (decodeFields w).bCons.toNat = w.toNat / 2 ^ 8 % 2 ^ 1 := toNat_getLsbD w 8
theorem toNat_decodeFields_bVal : (decodeFields w).bVal.toNat = w.toNat / 2 ^ 5 % 2 ^ 3 := toNat_extractLsb' w 5 3
theorem toNat_decodeFields_aImm : (decodeFields w).aImm.toNat = w.toNat / 2 ^ 4 % 2 ^ 1 := toNat_getLsbD w 4
theorem toNat_decodeFields_aCons : (decodeFields w).aCons.toNat = w.toNat / 2 ^ 3 % 2 ^ 1 := toNat_getLsbD w 3
theorem toNat_decodeFields_aVal : (decodeFields w).aVal.toNat = w.toNat / 2 ^ 0 % 2 ^ 3 := toNat_extractLsb' w 0 3

end decodeFields

/-- Settles O9: each mask of the table is a run of ones at its field's place. -/
theorem fieldsAreMaskAndShift : Obligations.FieldsAreMaskAndShift := fun w =>
  ⟨(toNat_decodeFields_opcode w).trans (and_mask_shiftRight w.toNat 12 4).symm,
    (toNat_decodeFields_dest w).trans (and_mask_shiftRight w.toNat 10 2).symm,
    (toNat_decodeFields_bImm w).trans (and_mask_shiftRight w.toNat 9 1).symm,
    (toNat_decodeFields_bCons w).trans (and_mask_shiftRight w.toNat 8 1).symm,
    (toNat_decodeFields_bVal w).trans (and_mask_shiftRight w.toNat 5 3).symm,
    (toNat_decodeFields_aImm w).trans (and_mask_shiftRight w.toNat 4 1).symm,
    (toNat_decodeFields_aCons w).trans (and_mask_shiftRight w.toNat 3 1).symm,
    (toNat_decodeFields_aVal w).trans (and_mask_shiftRight w.toNat 0 3).symm⟩

/-- Putting a field of `k` bits at `s` below bits that begin at `s + k` appends it to them. -/
theorem toNat_or_field {x : InstrWord} {k s q : Nat} (v : BitVec k) (hs : s + k ≤ 16)
    (hx : x.toNat = 2 ^ (s + k) * q) : (x ||| v.setWidth 16 <<< s).toNat = 2 ^ s * (2 ^ k * q + v.toNat) := by
  have hv : 2 ^ s * v.toNat < 2 ^ (s + k) := by
    rw [pow_add]
    exact Nat.mul_lt_mul_of_pos_left v.isLt (Nat.two_pow_pos s)
  have hfield : (v.setWidth 16 <<< s).toNat = 2 ^ s * v.toNat := by
    rw [BitVec.toNat_shiftLeft, BitVec.toNat_setWidth_of_le (by omega), Nat.shiftLeft_eq, mul_comm,
      Nat.mod_eq_of_lt (hv.trans_le (Nat.pow_le_pow_right two_pos hs))]
  rw [BitVec.toNat_or, hfield, hx, ← Nat.two_pow_add_eq_or_of_lt hv, pow_add, mul_assoc, mul_add]

theorem toNat_or_flag {x : InstrWord} {s q : Nat} (v : Bool) (hs : s + 1 ≤ 16) (hx : x.toNat = 2 ^ (s + 1) * q) :
    (x ||| flagBit v <<< s).toNat = 2 ^ s * (2 ^ 1 * q + v.toNat) := by
  rw [flagBit, toNat_or_field _ hs hx, BitVec.toNat_ofBool]

/-- The encoded word is the sum of its shifted fields, put in from the opcode down. -/
theorem toNat_encodeFields (f : Fields) : (encodeFields f).toNat =
    f.opcode.toNat * 2 ^ 12 + f.dest.toNat * 2 ^ 10 + f.bImm.toNat * 2 ^ 9 + f.bCons.toNat * 2 ^ 8 +
      f.bVal.toNat * 2 ^ 5 + f.aImm.toNat * 2 ^ 4 + f.aCons.toNat * 2 ^ 3 + f.aVal.toNat := by
  have opcode := toNat_or_field (x := 0#16) (s := 12) (q := 0) f.opcode (by omega) rfl
  have dest := toNat_or_field (s := 10) f.dest (by omega) opcode
  have bImm := toNat_or_flag (s := 9) f.bImm (by omega) dest
  have bCons := toNat_or_flag (s := 8) f.bCons (by omega) bImm
  have bVal := toNat_or_field (s := 5) f.bVal (by omega) bCons
  have aImm := toNat_or_flag (s := 4) f.aImm (by omega) bVal
  have aCons := toNat_or_flag (s := 3) f.aCons (by omega) aImm
  have aVal := toNat_or_field (s := 0) f.aVal (by omega) aCons
  rw [BitVec.zero_or, BitVec.shiftLeft_zero] at aVal
  rw [encodeFields, aVal]
  omega

theorem flag_eq_of_toNat_eq {a b : Bool} (h : a.toNat = b.toNat) : a = b :=
  Function.LeftInverse.injective Bool.ofNat_toNat h

/-- A tuple of fields is its eight numbers. -/
theorem Fields.eq_of_toNat {f g : Fields} (opcode : f.opcode.toNat = g.opcode.toNat)
    (dest : f.dest.toNat = g.dest.toNat) (bImm : f.bImm.toNat = g.bImm.toNat)
    (bCons : f.bCons.toNat = g.bCons.toNat) (bVal : f.bVal.toNat = g.bVal.toNat)
    (aImm : f.aImm.toNat = g.aImm.toNat) (aCons : f.aCons.toNat = g.aCons.toNat)
    (aVal : f.aVal.toNat = g.aVal.toNat) : f = g := by
  cases f
  cases g
  rw [Fields.mk.injEq]
  exact ⟨BitVec.eq_of_toNat_eq opcode, BitVec.eq_of_toNat_eq dest, flag_eq_of_toNat_eq bImm, flag_eq_of_toNat_eq bCons,
    BitVec.eq_of_toNat_eq bVal, flag_eq_of_toNat_eq aImm, flag_eq_of_toNat_eq aCons, BitVec.eq_of_toNat_eq aVal⟩

/-- Decoding undoes encoding: each field is smaller than the place the next one begins at. -/
@[simp] theorem decodeFields_encodeFields (f : Fields) : decodeFields (encodeFields f) = f := by
  have hopcode := f.opcode.isLt
  have hdest := f.dest.isLt
  have hbImm := f.bImm.toNat_lt
  have hbCons := f.bCons.toNat_lt
  have hbVal := f.bVal.isLt
  have haImm := f.aImm.toNat_lt
  have haCons := f.aCons.toNat_lt
  have haVal := f.aVal.isLt
  have hsum := toNat_encodeFields f
  apply Fields.eq_of_toNat
  · rw [toNat_decodeFields_opcode]; omega
  · rw [toNat_decodeFields_dest]; omega
  · rw [toNat_decodeFields_bImm]; omega
  · rw [toNat_decodeFields_bCons]; omega
  · rw [toNat_decodeFields_bVal]; omega
  · rw [toNat_decodeFields_aImm]; omega
  · rw [toNat_decodeFields_aCons]; omega
  · rw [toNat_decodeFields_aVal]; omega

/-- Encoding undoes decoding: the fields leave no bit of the word out. -/
@[simp] theorem encodeFields_decodeFields (w : InstrWord) : encodeFields (decodeFields w) = w := by
  have hw := w.isLt
  apply BitVec.eq_of_toNat_eq
  rw [toNat_encodeFields, toNat_decodeFields_opcode, toNat_decodeFields_dest, toNat_decodeFields_bImm,
    toNat_decodeFields_bCons, toNat_decodeFields_bVal, toNat_decodeFields_aImm, toNat_decodeFields_aCons,
    toNat_decodeFields_aVal]
  omega

/-- Settles O10. -/
theorem fieldsTileTheWord : Obligations.FieldsTileTheWord :=
  ⟨decodeFields_encodeFields, encodeFields_decodeFields, toNat_encodeFields⟩

end Sys2Proof

end

section

namespace Sys2Proof

/-! ### Instructions and their words (30_encoding.md R65, R70, R73) -/

theorem OpcodeMap.Injective.code_injective {m : OpcodeMap} (h : m.Injective) : Function.Injective m.code := by
  have hall : ∀ op, op ∈ [AluOp.and, .or, .xor, .slo, .slz] := by
    intro op
    cases op <;> decide
  have hcodes : ([AluOp.and, .or, .xor, .slo, .slz].map m.code).Nodup := h
  exact fun p q => List.inj_on_of_nodup_map hcodes (hall p) (hall q)

/-- Under an injective map a number stands for no operation but its own. -/
theorem OpcodeMap.lookup_code {m : OpcodeMap} (h : m.Injective) (op : AluOp) : m.lookup (m.code op) = some op := by
  cases hl : m.lookup (m.code op) with
  | none => exact absurd rfl (OpcodeMap.lookup_eq_none.mp hl op)
  | some p => rw [h.code_injective (OpcodeMap.code_of_lookup hl)]

/-- Operand selector A of a word's fields (30_encoding.md R62). -/
def Fields.selectorA (f : Fields) : Selector := Selector.ofFields f.aImm f.aCons f.aVal

/-- Operand selector B of a word's fields (30_encoding.md R62). -/
def Fields.selectorB (f : Fields) : Selector := Selector.ofFields f.bImm f.bCons f.bVal

theorem decode_of_lookup {m : OpcodeMap} {w : InstrWord} {op : AluOp}
    (h : m.lookup (decodeFields w).opcode = some op) : decode m w = .ok (Instr.mk op
      (Dest.ofBits (decodeFields w).dest) (decodeFields w).selectorA (decodeFields w).selectorB) := by
  rw [decode, h]
  rfl

theorem Instr.mk_parts (i : Instr) : Instr.mk i.op i.dest i.a i.b = i := by
  cases i <;> rfl

section fields
variable (m : OpcodeMap) (i : Instr)

@[simp] theorem Instr.fields_opcode : (i.fields m).opcode = m.code i.op := rfl
@[simp] theorem Instr.ofBits_fields_dest : Dest.ofBits (i.fields m).dest = i.dest := Dest.ofBits_bits i.dest
@[simp] theorem Instr.fields_selectorA : (i.fields m).selectorA = i.a := Selector.ofFields_parts i.a
@[simp] theorem Instr.fields_selectorB : (i.fields m).selectorB = i.b := Selector.ofFields_parts i.b
@[simp] theorem decodeFields_encode : decodeFields (encode m i) = i.fields m := decodeFields_encodeFields (i.fields m)

end fields

/-- Settles O11: the fields come back from the word, the operation from its number, and the parts from the fields. -/
theorem everyInstructionDecodesBack : Obligations.EveryInstructionDecodesBack := by
  intro m i hm
  have hop : m.lookup (decodeFields (encode m i)).opcode = some i.op := by simp [OpcodeMap.lookup_code hm]
  simp [decode_of_lookup hop, Instr.mk_parts]

/-- The instruction that a word decodes to has the word's own fields. -/
theorem fields_of_decode {m : OpcodeMap} {w : InstrWord} {i : Instr} (h : decode m w = .ok i) :
    i.fields m = decodeFields w := by
  obtain ⟨op, hop, rfl⟩ := decode_ok h
  simp [Instr.fields, OpcodeMap.code_of_lookup hop]

/-- Settles O12: the word is the encoding of its own fields. -/
theorem everyDecodedWordEncodesBack : Obligations.EveryDecodedWordEncodesBack := by
  intro m w i h
  rw [encode, fields_of_decode h, encodeFields_decodeFields]

end Sys2Proof

end

section

namespace Sys2Proof

/-! ### Legal words (30_encoding.md R65, R70, R72) -/

/-- The default map leaves the numbers from 5 on undefined (30_encoding.md R65). -/
theorem lookup_default_eq_none (c : BitVec 4) : defaultOpcodeMap.lookup c = none ↔ 5 ≤ c.toNat := by
  revert c
  decide

theorem Dest.ofBits_ne_reserved (v : BitVec 2) : Dest.ofBits v ≠ .reserved ↔ v.toNat ≠ 3 := by
  revert v
  decide

theorem Instr.wellFormed_iff (i : Instr) : i.wellFormed = true ↔ i.dest ≠ .reserved := i.dest.isKind_iff

/-- A word is legal by its opcode and its destination alone (30_encoding.md R72). -/
theorem legalWord_iff {m : OpcodeMap} {w : InstrWord} : LegalWord m w ↔
    (∃ op, m.lookup (decodeFields w).opcode = some op) ∧ Dest.ofBits (decodeFields w).dest ≠ .reserved := by
  constructor
  · rintro ⟨i, hdecode, hkind⟩
    obtain ⟨op, hop, rfl⟩ := decode_ok hdecode
    rw [Instr.wellFormed_iff, Instr.mk_dest] at hkind
    exact ⟨⟨op, hop⟩, hkind⟩
  · rintro ⟨⟨op, hop⟩, hdest⟩
    refine ⟨_, decode_of_lookup hop, ?_⟩
    rwa [Instr.wellFormed_iff, Instr.mk_dest]

/-- The legal words of the default map (D4, log 2). -/
theorem legalWord_default_iff (w : InstrWord) :
    LegalWord defaultOpcodeMap w ↔ w.toNat < 0x5000 ∧ (w.toNat &&& 0x0C00) >>> 10 ≠ 3 := by
  have hopcode := lookup_default_eq_none (decodeFields w).opcode
  rw [toNat_decodeFields_opcode] at hopcode
  have hdest : (decodeFields w).dest.toNat = (w.toNat &&& 0x0C00) >>> 10 :=
    (toNat_decodeFields_dest w).trans (and_mask_shiftRight w.toNat 10 2).symm
  rw [legalWord_iff, ← Option.ne_none_iff_exists', Ne, hopcode, Dest.ofBits_ne_reserved, hdest]
  exact and_congr_left fun _ => by omega

end Sys2Proof

namespace Sys2Proof.Machine

/-! ### Which words run, and which raise InvalidOpcode (30_encoding.md R70, R72) -/

/-- No instruction raises InvalidOpcode (60_exceptions.md R121). -/
theorem exec_ne_invalidOpcode (i : Instr) (s : State) (v : InstrWord) : exec i s ≠ .fault (.invalidOpcode v) := by
  rw [exec_eq_runAlu]
  rcases runAlu_cases s (encode s.cfg.opcodeMap i) i.dest i.a i.b (aluOf i.op) with ⟨_, e⟩ | ⟨_, _, e⟩ | ⟨_, _, e⟩ <;>
    simp [e]

/-- An undefined opcode raises InvalidOpcode in every state (30_encoding.md R70). -/
theorem engine_of_undefined {s : State} {w : InstrWord} (h : ∀ op, s.cfg.opcodeMap.code op ≠ (decodeFields w).opcode) :
    engine w s = .fault (.invalidOpcode w) := by
  rcases decode_cases s.cfg.opcodeMap w with ⟨_, hreject⟩ | ⟨i, hdecode⟩
  · exact engine_of_reject hreject
  · obtain ⟨op, hop, _⟩ := decode_ok hdecode
    exact absurd (OpcodeMap.code_of_lookup hop) (h op)

theorem engine_ne_invalidOpcode {s : State} {w : InstrWord} {op : AluOp}
    (h : s.cfg.opcodeMap.code op = (decodeFields w).opcode) (v : InstrWord) :
    engine w s ≠ .fault (.invalidOpcode v) := by
  rcases decode_cases s.cfg.opcodeMap w with ⟨hundefined, _⟩ | ⟨i, hdecode⟩
  · exact absurd h (hundefined op)
  · rw [engine_of_decode hdecode]
    exact exec_ne_invalidOpcode i s v

/-- Settles O13: the opcode is the word's top four bits, so the numbers from 5 on are the words from 0x5000 on. -/
theorem undefinedOpcodeRaisesInvalidOpcode : Obligations.UndefinedOpcodeRaisesInvalidOpcode := by
  refine ⟨fun s w h => engine_of_undefined h, fun s w v op h => engine_ne_invalidOpcode h v, fun w => ?_⟩
  have hundefined := lookup_default_eq_none (decodeFields w).opcode
  rw [OpcodeMap.lookup_eq_none, toNat_decodeFields_opcode] at hundefined
  have hw := w.isLt
  exact hundefined.trans (by omega)

/-- Where SCAN_LEN is below STACK_CAP no rebuild overflows (60_exceptions.md R123): an instruction completes exactly if
it is legal. -/
theorem exec_next_iff {s : State} (hscan : s.cfg.scanLen < s.cfg.stackCap) (i : Instr) :
    (∃ t, exec i s = .next t) ↔ i.wellFormed = true := by
  rw [Instr.wellFormed_iff, exec_eq_runAlu]
  rcases runAlu_cases s (encode s.cfg.opcodeMap i) i.dest i.a i.b (aluOf i.op) with
    ⟨hd, e⟩ | ⟨_, hover, _⟩ | ⟨hd, _, e⟩
  · rw [e]
    simp [hd]
  · exact absurd (hover.trans_le (length_produced_le ..)) (by omega)
  · simp [e, hd]

/-- There exactly the legal words run, in every state. -/
theorem engine_next_iff {s : State} (hscan : s.cfg.scanLen < s.cfg.stackCap) (w : InstrWord) :
    (∃ t, engine w s = .next t) ↔ LegalWord s.cfg.opcodeMap w := by
  rcases decode_cases s.cfg.opcodeMap w with ⟨_, hreject⟩ | ⟨i, hdecode⟩
  · simp [engine_of_reject hreject, LegalWord, hreject]
  · simp [engine_of_decode hdecode, LegalWord, hdecode, exec_next_iff hscan]

/-- Settles O38: the default SCAN_LEN is below the default STACK_CAP. -/
theorem legalWordsRunAtTheDefaults : Obligations.LegalWordsRunAtTheDefaults := by
  intro s w hs
  rw [engine_next_iff (by rw [hs]; decide), hs]
  exact legalWord_default_iff w

end Sys2Proof.Machine

end

section

namespace Sys2Proof

/-! ### The consume flag beside an immediate (30_encoding.md R69) -/

/-- A selector with the consume flag clear where it is ignored, beside an immediate. -/
def Selector.effective : Selector → Selector
  | .imm _ v => .imm false v
  | .slot c k => .slot c k

theorem Selector.effective_ofFields_imm (c : Bool) (v : BitVec 3) :
    (Selector.ofFields true c v).effective = .imm false v := rfl

/-! What a mask of ones leaves of a field, in the numerals the masks evaluate to. -/

theorem and_fifteen (v : BitVec 4) : v &&& 15#4 = v := BitVec.and_allOnes
theorem and_three (v : BitVec 2) : v &&& 3#2 = v := BitVec.and_allOnes
theorem and_seven (v : BitVec 3) : v &&& 7#3 = v := BitVec.and_allOnes

section consumeBits
variable (w : InstrWord)

theorem decodeFields_or_aCons : decodeFields (w ||| 0x0008#16) = { decodeFields w with aCons := true } := by
  simp [decodeFields, BitVec.extractLsb'_or]
theorem decodeFields_and_aCons : decodeFields (w &&& 0xFFF7#16) = { decodeFields w with aCons := false } := by
  simp [decodeFields, BitVec.extractLsb'_and, and_fifteen, and_three, and_seven]
theorem decodeFields_or_bCons : decodeFields (w ||| 0x0100#16) = { decodeFields w with bCons := true } := by
  simp [decodeFields, BitVec.extractLsb'_or]
theorem decodeFields_and_bCons : decodeFields (w &&& 0xFEFF#16) = { decodeFields w with bCons := false } := by
  simp [decodeFields, BitVec.extractLsb'_and, and_fifteen, and_three, and_seven]

end consumeBits

end Sys2Proof

namespace Sys2Proof.Machine

section effective
variable {a a' : Selector} (h : a'.effective = a.effective)
include h

theorem operandValue_congr_effective {n : Nat} (x : List (Word n)) : operandValue x a' = operandValue x a := by
  have hread (sel : Selector) : operandValue x sel.effective = operandValue x sel := by cases sel <;> rfl
  rw [← hread a', h, hread a]

theorem consumedSlot_congr_effective : consumedSlot a' = consumedSlot a := by
  have hread (sel : Selector) : consumedSlot sel.effective = consumedSlot sel := by cases sel <;> rfl
  rw [← hread a', h, hread a]

end effective

/-- A step reads the effective selectors only, and its word only where the destination is reserved. -/
theorem runAlu_congr_effective (s : State) (w v : InstrWord) {d : Dest} {a a' b b' : Selector}
    (alu : Word s.cfg.xlen → Word s.cfg.xlen → Word s.cfg.xlen) (hd : d ≠ .reserved)
    (ha : a'.effective = a.effective) (hb : b'.effective = b.effective) :
    runAlu s v d a' b' alu = runAlu s w d a b alu := by
  have hset : consumedSet a' b' = consumedSet a b := by
    rw [consumedSet, consumedSlot_congr_effective ha, consumedSlot_congr_effective hb, consumedSet]
  have hout (r : Word s.cfg.xlen) :
      produced s.cfg.scanLen d a' b' r s.x = produced s.cfg.scanLen d a b r s.x := by
    rw [produced, hset, produced]
  simp only [runAlu, if_neg hd, operandValue_congr_effective ha, operandValue_congr_effective hb, hout]

/-- A word with the opcode, the destination and the effective selectors of a legal word executes like it. -/
theorem engine_congr_effective {s : State} {w v : InstrWord} (hlegal : LegalWord s.cfg.opcodeMap w)
    (hopcode : (decodeFields v).opcode = (decodeFields w).opcode)
    (hdest : (decodeFields v).dest = (decodeFields w).dest)
    (ha : (decodeFields v).selectorA.effective = (decodeFields w).selectorA.effective)
    (hb : (decodeFields v).selectorB.effective = (decodeFields w).selectorB.effective) : engine v s = engine w s := by
  obtain ⟨⟨op, hop⟩, hkind⟩ := legalWord_iff.mp hlegal
  rw [engine_of_decode (decode_of_lookup hop), engine_of_decode (decode_of_lookup (hopcode ▸ hop)), exec_eq_runAlu,
    exec_eq_runAlu]
  simp only [Instr.mk_op, Instr.mk_dest, Instr.mk_a, Instr.mk_b, hdest]
  exact runAlu_congr_effective s _ _ (aluOf op) hkind ha hb

/-- Beside A's set immediate flag the consume flag of A makes no difference. -/
theorem engine_of_aCons {s : State} {w v : InstrWord} {c : Bool} (hlegal : LegalWord s.cfg.opcodeMap w)
    (himm : (decodeFields w).aImm = true) (hv : decodeFields v = { decodeFields w with aCons := c }) :
    engine v s = engine w s := by
  refine engine_congr_effective hlegal ?_ ?_ ?_ ?_ <;> rw [hv]
  · simp only [Fields.selectorA, himm, Selector.effective_ofFields_imm]
  · rfl

/-- Beside B's set immediate flag the consume flag of B makes no difference. -/
theorem engine_of_bCons {s : State} {w v : InstrWord} {c : Bool} (hlegal : LegalWord s.cfg.opcodeMap w)
    (himm : (decodeFields w).bImm = true) (hv : decodeFields v = { decodeFields w with bCons := c }) :
    engine v s = engine w s := by
  refine engine_congr_effective hlegal ?_ ?_ ?_ ?_ <;> rw [hv]
  · rfl
  · simp only [Fields.selectorB, himm, Selector.effective_ofFields_imm]

/-- An effective consume is the consume flag with the immediate flag clear (30_encoding.md R69). -/
theorem mem_consumedSlot (sel : Selector) (k : Nat) :
    k ∈ consumedSlot sel ↔ (sel.consFlag && !sel.immFlag) = true ∧ k = sel.number.toNat := by
  cases sel with
  | imm c v => simp [consumedSlot, Selector.immFlag]
  | slot c i => cases c <;> simp [consumedSlot, Selector.immFlag, Selector.consFlag, Selector.number]

/-- Settles O14: with the flag set and with it clear the word executes as it stands. -/
theorem consumeFlagIsIgnoredBesideAnImmediate : Obligations.ConsumeFlagIsIgnoredBesideAnImmediate := by
  refine ⟨fun s w hlegal himm => ?_, fun s w hlegal himm => ?_, mem_consumedSlot⟩
  · calc engine (w ||| 0x0008#16) s
      _ = engine w s := engine_of_aCons hlegal himm (decodeFields_or_aCons w)
      _ = engine (w &&& 0xFFF7#16) s := (engine_of_aCons hlegal himm (decodeFields_and_aCons w)).symm
  · calc engine (w ||| 0x0100#16) s
      _ = engine w s := engine_of_bCons hlegal himm (decodeFields_or_bCons w)
      _ = engine (w &&& 0xFEFF#16) s := (engine_of_bCons hlegal himm (decodeFields_and_bCons w)).symm

end Sys2Proof.Machine

end

section

namespace Sys2Proof

/-! ### Written-out words (30_encoding.md R61, R62, R75) -/

/-- Settles O8: the seven words are evaluated. -/
theorem sampleWordsDecode : Obligations.SampleWordsDecode := by
  unfold Obligations.SampleWordsDecode
  decide

/-- Settles O15: each word is evaluated, at all eight numbers where the alias takes one. -/
theorem pseudoInstructionWords : Obligations.PseudoInstructionWords := by
  unfold Obligations.PseudoInstructionWords
  decide

end Sys2Proof

end

section

namespace Sys2Proof.Machine

/-! ### The pseudo-instructions (30_encoding.md R75) -/

theorem readSlot_map_range {n : Nat} (f : Nat → Word n) {len k : Nat} (hk : k < len) :
    readSlot ((List.range len).map f) k = f k := by
  simp [readSlot, hk]

/-- With the top consumed every other scanned slot moves one place up (40_datapath.md R89). -/
theorem readSlot_survivors_top {n : Nat} {scanLen : Nat} (x : List (Word n)) {k : Nat} (hk : k + 1 < scanLen) :
    readSlot (survivors scanLen [0] x) k = readSlot x (k + 1) := by
  obtain ⟨len, rfl⟩ : ∃ len, scanLen = len + 1 := ⟨scanLen - 1, by omega⟩
  have hkept : (List.range (len + 1)).filter (fun i => !([0].contains i)) = (List.range len).map (· + 1) := by
    rw [List.range_succ_eq_map]
    simp
  rw [survivors, hkept, List.map_map, readSlot_map_range _ (by omega)]
  rfl

/-- A push that consumes nothing puts its result above the old slots. -/
theorem exec_push_slots {i : Instr} {s t : State} (h : exec i s = .next t) (hdest : i.dest = .push)
    (hnone : consumedInScan s.cfg.scanLen i.a i.b = []) :
    (readSlot t.x 0).toNat = (aluOf i.op (operandValue s.x i.a) (operandValue s.x i.b)).toNat ∧
    ∀ k < s.cfg.scanLen, (readSlot t.x (k + 1)).toNat = (readSlot s.x k).toNat := by
  obtain ⟨_, _, _, _, hslots⟩ := exec_next_toNat h
  rw [hdest] at hslots
  exact ⟨hslots 0, fun k hk => by rw [hslots, readSlot_produced_push _ _ hnone hk]⟩

/-- An instruction that consumes the top and pushes nothing moves every other scanned slot one place up. -/
theorem exec_pop_slots {i : Instr} {s t : State} (h : exec i s = .next t) (hdest : i.dest ≠ .push)
    (htop : consumedSet i.a i.b = [0]) {k : Nat} (hk : k + 1 < s.cfg.scanLen) :
    (readSlot t.x k).toNat = (readSlot s.x (k + 1)).toNat := by
  obtain ⟨_, _, _, _, hslots⟩ := exec_next_toNat h
  rw [hslots, produced, pushed, if_neg hdest, htop, List.nil_append, readSlot_survivors_top _ hk]

/-- An instruction that consumes and pushes nothing keeps the scanned slots and zeroes the others (D3, log 10). -/
theorem exec_keep_slots {i : Instr} {s t : State} (h : exec i s = .next t) (hdest : i.dest ≠ .push)
    (hnone : consumedInScan s.cfg.scanLen i.a i.b = []) :
    (∀ k < s.cfg.scanLen, (readSlot t.x k).toNat = (readSlot s.x k).toNat) ∧
    ∀ k, s.cfg.scanLen ≤ k → readSlot t.x k = 0 := by
  obtain ⟨_, _, _, _, hslots⟩ := exec_next_toNat h
  refine ⟨fun k hk => ?_, fun k hk => exec_next_readSlot_eq_zero h fun r => ?_⟩
  · rw [hslots, produced, pushed, if_neg hdest, List.nil_append, survivors_of_nothing_consumed _ hnone,
      readSlot_map_range _ hk]
  · exact (length_produced_le_scanLen r s.x fun ⟨hpush, _⟩ => hdest hpush).trans hk

/-- WRITE-PC puts the result into `pc` (40_datapath.md R87). -/
theorem exec_writePc_pc {i : Instr} {s t : State} (h : exec i s = .next t) (hdest : i.dest = .writePc) :
    t.pc.toNat = (aluOf i.op (operandValue s.x i.a) (operandValue s.x i.b)).toNat := by
  obtain ⟨hpc, _⟩ := exec_next_toNat h
  rwa [nextPc, if_pos hdest] at hpc

/-- The immediate of PUSHI and JMPI keeps its value at every admitted width (00_scope.md R8, 30_encoding.md R67). -/
theorem toNat_or_imm_zero {n : Nat} (h : 3 ≤ n) (x : List (Word n)) (v : BitVec 3) :
    (aluOf .or (operandValue x (.imm false v)) (operandValue x (.imm false 0))).toNat = v.toNat := by
  have hor : aluOf .or (operandValue x (.imm false v)) (operandValue x (.imm false 0)) = v.setWidth n := by
    simp [aluOf, aluOr, operandValue]
  rw [hor, BitVec.toNat_setWidth_of_le h]

/-- The OR of a slot with itself, by which DUP and JMPS read it. -/
theorem aluOf_or_self {n : Nat} (v : Word n) : aluOf .or v v = v := BitVec.or_self

/-- Settles O28: PUSHI and DUP push, POP and JMPS consume the top, NOPI does neither, and JMPI and JMPS write `pc`. -/
theorem pseudoInstructionEffects : Obligations.PseudoInstructionEffects := by
  rintro s t ⟨hxlen, _⟩ _
  refine ⟨fun n h => ?pushi, fun k h => ?dup, fun h k hk => ?pop, fun n h => ?jmpi, fun h => ?jmps, fun h => ?nopi⟩
  case pushi =>
    obtain ⟨htop, hrest⟩ := exec_push_slots h rfl rfl
    exact ⟨htop.trans (toNat_or_imm_zero hxlen s.x n), hrest⟩
  case dup =>
    obtain ⟨htop, hrest⟩ := exec_push_slots h rfl rfl
    exact ⟨htop.trans (congrArg BitVec.toNat (aluOf_or_self _)), hrest⟩
  case pop => exact exec_pop_slots h (by decide) rfl hk
  case jmpi => exact (exec_writePc_pc h rfl).trans (toNat_or_imm_zero hxlen s.x n)
  case jmps =>
    exact ⟨(exec_writePc_pc h rfl).trans (congrArg BitVec.toNat (aluOf_or_self _)),
      fun k hk => exec_pop_slots h (by decide) rfl hk⟩
  case nopi => exact exec_keep_slots h (by decide) rfl

end Sys2Proof.Machine

end

section

namespace Sys2Proof.Machine

/-! ### The ALU functions are the formulas of R100 to R111 -/

/-- At an amount of at least the width the fill-ones formula is all ones (42_shift.md R112, D7, log 8). -/
theorem formula_slo_of_le {n : Nat} (a b : Word n) (h : n ≤ b.toNat) :
    AluOp.slo.formula a b = BitVec.allOnes n := by
  obtain ⟨k, hk⟩ := Nat.exists_eq_add_of_le h
  have hpos : 0 < (a.toNat + 1) * 2 ^ k := Nat.mul_pos (Nat.succ_pos _) (Nat.two_pow_pos k)
  obtain ⟨q, hq⟩ : ∃ q, (a.toNat + 1) * 2 ^ k = q + 1 := ⟨_, (Nat.sub_add_cancel hpos).symm⟩
  have hvalue : (a.toNat + 1) * 2 ^ b.toNat - 1 = 2 ^ n * q + (2 ^ n - 1) := by
    have hsucc : (a.toNat + 1) * 2 ^ b.toNat = 2 ^ n * q + 2 ^ n := by
      rw [hk, pow_add, mul_left_comm, hq, mul_add_one]
    have := Nat.two_pow_pos n
    omega
  apply BitVec.eq_of_toNat_eq
  rw [AluOp.formula, BitVec.toNat_ofNat, hvalue, Nat.mul_add_mod, BitVec.toNat_allOnes,
    Nat.mod_eq_of_lt (Nat.sub_lt (Nat.two_pow_pos n) one_pos)]

/-- At an amount of at least the width the fill-zeros formula is zero (42_shift.md R112, D7, log 8). -/
theorem formula_slz_of_le {n : Nat} (a b : Word n) (h : n ≤ b.toNat) : AluOp.slz.formula a b = 0 := by
  apply BitVec.eq_of_toNat_eq
  rw [AluOp.formula, BitVec.toNat_ofNat]
  exact Nat.mod_eq_zero_of_dvd (Dvd.dvd.mul_left (Nat.pow_dvd_pow 2 h) _)

/-- The ALU function of every operation is its formula, at every shift amount (40_datapath.md R84). -/
theorem aluOf_eq_formula {n : Nat} (op : AluOp) (a b : Word n) : aluOf op a b = op.formula a b := by
  cases op with
  | and => rfl
  | or => rfl
  | xor => rfl
  | slo =>
    by_cases h : b.toNat < n
    · exact if_pos h
    · exact (if_neg h).trans (formula_slo_of_le a b (not_lt.mp h)).symm
  | slz =>
    by_cases h : b.toNat < n
    · exact if_pos h
    · exact (if_neg h).trans (formula_slz_of_le a b (not_lt.mp h)).symm

end Sys2Proof.Machine

end

section

namespace Sys2Proof.Machine

/-! ### The consumed set (40_datapath.md R88) -/

theorem nodup_consumedSlot (sel : Selector) : (consumedSlot sel).Nodup := by
  rcases sel with _ | ⟨_ | _, k⟩ <;> simp [consumedSlot]

theorem length_consumedSlot_le (sel : Selector) : (consumedSlot sel).length ≤ 1 := by
  rcases sel with _ | ⟨_ | _, k⟩ <;> simp [consumedSlot]

theorem nodup_consumedSet (a b : Selector) : (consumedSet a b).Nodup := by
  refine (nodup_consumedSlot a).append ((nodup_consumedSlot b).filter _) fun k ha hb => ?_
  have hnew := (List.mem_filter.mp hb).2
  simp [ha] at hnew

/-- Settles O31: the set joins two selectors of at most one slot each, and leaves out B's slot where A names it too. -/
theorem consumedSetIsTheReferencedSlots : Obligations.ConsumedSetIsTheReferencedSlots := by
  intro a b
  refine ⟨fun k => ?_, nodup_consumedSet a b, ?_, fun k hk => ?_⟩
  · simp [mem_consumedSet, mem_consumedSlot, and_assoc, and_left_comm]
  · rw [consumedSet, List.length_append]
    exact Nat.add_le_add (length_consumedSlot_le a) ((List.length_filter_le _ _).trans (length_consumedSlot_le b))
  · rcases (mem_consumedSet a b k).mp hk with h | h <;> exact Nat.le_of_lt_succ (consumedSlot_lt _ k h)

end Sys2Proof.Machine

end

section

namespace Sys2Proof.Machine

/-! ### The produced sequence, slot by slot (40_datapath.md R89, R90, R93) -/

section produced
variable {n : Nat} (d : Dest) (a b : Selector) (r : Word n) (x : List (Word n))

/-- The scan goes on with one more slot, which it appends unless it is consumed. -/
theorem produced_succ (k : Nat) : produced (k + 1) d a b r x =
    produced k d a b r x ++ if k ∈ consumedSet a b then [] else [readSlot x k] := by
  by_cases h : k ∈ consumedSet a b <;> simp [produced, survivors, List.range_succ, h]

/-- How many entries the scan has produced is the formula of 40_datapath.md R90. -/
theorem length_produced (scanLen : Nat) :
    (produced scanLen d a b r x).length = producedLength scanLen d a b := by
  have hconsumed : ((List.range scanLen).filter (consumedSet a b).contains).length =
      (consumedInScan scanLen a b).length := by
    have hnodup := (nodup_consumedSet a b).filter (· < scanLen)
    refine ((List.perm_ext_iff_of_nodup (List.nodup_range.filter _) hnodup).mpr fun k => ?_).length_eq
    simp [and_comm]
  have hpushed : (pushed d r).length = pushCount d := by
    rw [pushed, pushCount]
    split <;> rfl
  have hsplit := (List.range scanLen).length_eq_length_filter_add (consumedSet a b).contains
  rw [List.length_range, hconsumed] at hsplit
  rw [produced, survivors, producedLength, List.length_append, List.length_map, hpushed]
  omega

/-- An old slot of the scan range that is not consumed stands where the scan has come to when it reaches it. -/
theorem getElem?_produced_of_kept {scanLen i : Nat} (hi : i < scanLen) (hkept : i ∉ consumedSet a b) :
    (produced scanLen d a b r x)[(produced i d a b r x).length]? = some (readSlot x i) := by
  induction scanLen with
  | zero => exact absurd hi (Nat.not_lt_zero i)
  | succ k ih =>
    rw [produced_succ]
    rcases Nat.lt_succ_iff_lt_or_eq.mp hi with hlt | rfl
    · obtain ⟨hin, _⟩ := List.getElem?_eq_some_iff.mp (ih hlt)
      rw [List.getElem?_append_left hin, ih hlt]
    · simp [hkept]

/-- Every entry of the produced sequence is the pushed result or such an old slot. -/
theorem eq_of_lt_length_produced {scanLen j : Nat} (hj : j < (produced scanLen d a b r x).length) :
    (d = .push ∧ j = 0) ∨ ∃ i < scanLen, i ∉ consumedSet a b ∧ j = (produced i d a b r x).length := by
  induction scanLen with
  | zero =>
    by_cases hd : d = .push
    · exact .inl ⟨hd, by simpa [produced, survivors, pushed, hd] using hj⟩
    · simp [produced, survivors, pushed, hd] at hj
  | succ k ih =>
    by_cases hlt : j < (produced k d a b r x).length
    · refine (ih hlt).imp_right fun ⟨i, hi, hkept⟩ => ⟨i, Nat.lt_succ_of_lt hi, hkept⟩
    · rw [produced_succ, List.length_append] at hj
      by_cases hk : k ∈ consumedSet a b
      · simp [hk, hlt] at hj
      · rw [if_neg hk, List.length_singleton] at hj
        exact .inr ⟨k, Nat.lt_succ_self k, hk, by omega⟩

/-- The place R93 gives to the old slot `i` is where the scan has come to when it reaches it. -/
theorem place_eq_length_produced {scanLen i : Nat} (hi : i ≤ scanLen) :
    pushCount d + i - below scanLen a b i = (produced i d a b r x).length := by
  have hbelow : (consumedInScan scanLen a b).filter (· < i) = consumedInScan i a b := by
    rw [consumedInScan, List.filter_filter, consumedInScan]
    refine List.filter_congr fun k _ => ?_
    simp only [← Bool.decide_and]
    exact decide_eq_decide.mpr ⟨And.left, fun h => ⟨h, h.trans_le hi⟩⟩
  rw [length_produced, producedLength, below, hbelow]

end produced

theorem not_mem_consumedInScan {scanLen i : Nat} {a b : Selector} (hi : i < scanLen) :
    i ∉ consumedInScan scanLen a b ↔ i ∉ consumedSet a b := by
  simp [consumedInScan, hi]

/-- The produced sequence, filled with zeros, is the closed form of the new stack (40_datapath.md R93). -/
theorem rebuilt_zeroFill_produced {c : Config} {d : Dest} {a b : Selector}
    (hfits : producedLength c.scanLen d a b ≤ c.stackCap) (r : Word c.xlen) (x : List (Word c.xlen)) :
    Rebuilt c d a b r x (zeroFill c.stackCap (produced c.scanLen d a b r x)) where
  length := length_zeroFill _ _ ((length_produced d a b r x c.scanLen).trans_le hfits)
  top hd := by
    subst hd
    exact readSlot_zeroFill ..
  kept i hi hkept := by
    rw [readSlot_zeroFill, place_eq_length_produced d a b r x hi.le, readSlot, List.getD_eq_getElem?_getD,
      getElem?_produced_of_kept d a b r x hi ((not_mem_consumedInScan hi).mp hkept), Option.getD_some]
  rest j _ htop hkept := by
    rw [readSlot_zeroFill]
    refine readSlot_of_length_le _ _ (not_lt.mp fun hj => ?_)
    rcases eq_of_lt_length_produced d a b r x hj with ⟨hd, hzero⟩ | ⟨i, hi, hmem, hplace⟩
    · exact htop hd hzero
    · refine hkept i hi ((not_mem_consumedInScan hi).mpr hmem) ?_
      rwa [place_eq_length_produced d a b r x hi.le]

/-- The rebuild stays within SCAN_LEN entries where nothing is pushed. -/
theorem producedLength_le_scanLen {scanLen : Nat} {d : Dest} (a b : Selector) (hd : d ≠ .push) :
    producedLength scanLen d a b ≤ scanLen := by
  rw [producedLength, pushCount, if_neg hd, zero_add]
  exact Nat.sub_le ..

theorem producedLength_le_succ (scanLen : Nat) (d : Dest) (a b : Selector) :
    producedLength scanLen d a b ≤ scanLen + 1 := by
  have hpush : pushCount d ≤ 1 := by cases d <;> decide
  rw [producedLength]
  omega

/-- The formula of R90 exceeds the capacity exactly in the case it names. -/
theorem stackCap_lt_producedLength_iff {c : Config} (hc : c.Admitted) (d : Dest) (a b : Selector) :
    c.stackCap < producedLength c.scanLen d a b ↔ Overflows c d a b := by
  obtain ⟨_, _, hscan, _⟩ := hc
  have hcap : c.scanLen ≤ c.stackCap := hscan.trans (min_le_right _ _)
  have hnone : (∀ k ∈ consumedSet a b, c.scanLen ≤ k) ↔ (consumedInScan c.scanLen a b).length = 0 := by
    simp [consumedInScan]
  rw [Overflows, hnone]
  by_cases hd : d = .push
  · simp only [producedLength, pushCount, hd, if_true, true_and]
    omega
  · exact iff_of_false ((producedLength_le_scanLen a b hd).trans hcap).not_gt fun ⟨_, hpush, _⟩ => hd hpush

theorem producedLength_le_of_not_overflows {c : Config} {d : Dest} {a b : Selector} (hc : c.Admitted)
    (h : ¬ Overflows c d a b) : producedLength c.scanLen d a b ≤ c.stackCap :=
  not_lt.mp fun hover => h ((stackCap_lt_producedLength_iff hc d a b).mp hover)

end Sys2Proof.Machine

end

section

namespace Sys2Proof.Machine

/-! ### When an instruction completes, and what it leaves (40_datapath.md R81) -/

/-- An instruction whose destination is a kind and whose rebuild fits completes, with the formula's result and the
produced sequence filled with zeros. -/
theorem exec_mk_of_fits {s : State} {d : Dest} {a b : Selector} (op : AluOp) (hd : d ≠ .reserved)
    (hfits : producedLength s.cfg.scanLen d a b ≤ s.cfg.stackCap) :
    exec (Instr.mk op d a b) s = .next (s.after d a b (op.formula (operandValue s.x a) (operandValue s.x b))
      (zeroFill s.cfg.stackCap (produced s.cfg.scanLen d a b
        (op.formula (operandValue s.x a) (operandValue s.x b)) s.x))) := by
  rw [exec_eq_runAlu, Instr.mk_dest, Instr.mk_a, Instr.mk_b, Instr.mk_op, ← aluOf_eq_formula]
  rcases runAlu_cases s (encode s.cfg.opcodeMap (Instr.mk op d a b)) d a b (aluOf op) with
    ⟨hres, _⟩ | ⟨_, hover, _⟩ | ⟨_, _, e⟩
  · exact absurd hres hd
  · rw [length_produced] at hover
    exact absurd hfits hover.not_ge
  · exact e

/-- An instruction that pushes nothing fits on every admitted machine. -/
theorem exec_mk_of_ne_push {s : State} {d : Dest} (a b : Selector) (op : AluOp) (hc : s.cfg.Admitted)
    (hd : d ≠ .reserved) (hpush : d ≠ .push) :
    exec (Instr.mk op d a b) s = .next (s.after d a b (op.formula (operandValue s.x a) (operandValue s.x b))
      (zeroFill s.cfg.stackCap (survivors s.cfg.scanLen (consumedSet a b) s.x))) := by
  rw [exec_mk_of_fits op hd (producedLength_le_of_not_overflows hc fun ⟨_, h, _⟩ => hpush h), produced, pushed,
    if_neg hpush, List.nil_append]

/-- The only overflow of an instruction is that of the formula. -/
theorem exec_stackOverflow {i : Instr} {s : State} {n : Nat} (h : exec i s = .fault (.stackOverflow n)) :
    s.cfg.stackCap < producedLength s.cfg.scanLen i.dest i.a i.b := by
  rw [exec_eq_runAlu] at h
  rcases runAlu_cases s (encode s.cfg.opcodeMap i) i.dest i.a i.b (aluOf i.op) with ⟨_, e⟩ | ⟨_, hover, _⟩ | ⟨_, _, e⟩
  · simp [e] at h
  · rwa [length_produced] at hover
  · simp [e] at h

/-- A legal instruction whose rebuild does not fit raises StackOverflow with the formula's length. -/
theorem exec_of_overflow {i : Instr} {s : State} (hd : i.dest ≠ .reserved)
    (hover : s.cfg.stackCap < producedLength s.cfg.scanLen i.dest i.a i.b) :
    exec i s = .fault (.stackOverflow (producedLength s.cfg.scanLen i.dest i.a i.b)) := by
  rw [exec_eq_runAlu]
  rcases runAlu_cases s (encode s.cfg.opcodeMap i) i.dest i.a i.b (aluOf i.op) with ⟨hres, _⟩ | ⟨_, _, e⟩ | ⟨_, hfits, _⟩
  · exact absurd hres hd
  · rwa [length_produced] at e
  · rw [length_produced] at hfits
    exact absurd hfits hover.not_ge

/-- Settles O33, by the length of the produced sequence: the fault and the next state are the two sides of the capacity
test, and the formula never exceeds SCAN_LEN + 1. -/
theorem overflowExactlyByTheLengthFormula : Obligations.OverflowExactlyByTheLengthFormula := by
  refine ⟨fun s i _ hlegal => ?_, fun c d a b hc => stackCap_lt_producedLength_iff hc d a b,
    producedLength_le_succ 8, fun s i n hscan hcap h => ?_⟩
  · have hd := i.wellFormed_iff.mp hlegal
    refine ⟨exec_of_overflow hd, fun hfits => ?_⟩
    rw [← i.mk_parts]
    exact ⟨_, exec_mk_of_fits i.op hd hfits⟩
  · have hover := exec_stackOverflow h
    have hlen := producedLength_le_succ s.cfg.scanLen i.dest i.a i.b
    omega

/-! ### Operands and latches (40_datapath.md R82, R83, R92) -/

/-- A 3-bit immediate keeps its value at every width of at least three (00_scope.md R8, 30_encoding.md R67). -/
theorem toNat_operandValue_imm {n : Nat} (hn : 3 ≤ n) (x : List (Word n)) (c : Bool) (v : BitVec 3) :
    (operandValue x (.imm c v)).toNat = v.toNat := BitVec.toNat_setWidth_of_le hn

theorem getElem?_eq_readSlot {n : Nat} {x : List (Word n)} {k : Nat} (hk : k < x.length) :
    x[k]? = some (readSlot x k) := by
  rw [readSlot_of_lt x k hk, List.getElem?_eq_getElem hk]

/-- Settles O21: the latches hold the operand values, and an admitted stack has at least eight slots. -/
theorem operandsResolve : Obligations.OperandsResolve := by
  refine ⟨fun s t i hs h => ?_, fun s k hs => getElem?_eq_readSlot ?_⟩
  · obtain ⟨⟨hxlen, _⟩, _⟩ := hs
    obtain ⟨_, hvalA, hvalB, _⟩ := exec_next_toNat h
    rw [hvalA, hvalB]
    refine ⟨fun c v ha => ?_, fun c k ha => ?_, fun c v hb => ?_, fun c k hb => ?_⟩
    · rw [ha, toNat_operandValue_imm hxlen]
    · rw [ha, operandValue]
    · rw [hb, toNat_operandValue_imm hxlen]
    · rw [hb, operandValue]
  · obtain ⟨⟨_, hcap, _⟩, hlen⟩ := hs
    exact k.isLt.trans_le (hlen.symm ▸ hcap)

/-- An enabled edge of a faulting word latches the fault's code, or nothing where one is latched already. -/
theorem clockEdge_of_fault {w : InstrWord} {s : State} {f : Fault} (h : engine w s = .fault f) :
    clockEdge ⟨false, true, w⟩ s = s.latchFault f ∨ clockEdge ⟨false, true, w⟩ s = s := by
  by_cases hclear : s.fault = .none
  · left
    rw [clockEdge_enabled rfl rfl hclear, feedWord_of_fault h]
  · exact .inr (clockEdge_idle rfl (.inr hclear))

/-- Settles O22: a successful step commits the operands and the result; a faulting edge writes the fault latch at most. -/
theorem latchesTakeOperandsAndResult : Obligations.LatchesTakeOperandsAndResult := by
  refine ⟨fun s t i h => ?_, fun s w f hfault => ?_⟩
  · obtain ⟨_, hvalA, hvalB, hres, _⟩ := exec_next_toNat h
    exact ⟨hvalA, hvalB, hres.trans (congrArg BitVec.toNat (aluOf_eq_formula i.op _ _))⟩
  · rcases clockEdge_of_fault hfault with hedge | hedge <;> rw [hedge] <;> exact ⟨rfl, rfl, rfl⟩

/-! ### The three destinations (40_datapath.md R85, R86, R87) -/

/-- Settles O23: with nothing pushed the produced sequence is the survivors, whatever the result. -/
theorem dropDiscardsTheResult : Obligations.DropDiscardsTheResult := by
  intro s a b hc
  refine ⟨zeroFill s.cfg.stackCap (survivors s.cfg.scanLen (consumedSet a b) s.x), fun r => ?_, fun op => ?_⟩
  · exact rebuilt_zeroFill_produced (producedLength_le_of_not_overflows hc fun ⟨_, h, _⟩ => nomatch h) r s.x
  · exact exec_mk_of_ne_push a b op hc (by decide) (by decide)

/-- Filling up a sequence with one entry more on top drops one zero at the end. -/
theorem zeroFill_cons {n cap : Nat} (r : Word n) {out : List (Word n)} (h : out.length < cap) :
    zeroFill cap (r :: out) = (r :: zeroFill cap out).take cap := by
  obtain ⟨k, rfl⟩ := Nat.exists_eq_add_of_lt h
  have hzeros : out.length + k + 1 - out.length = k + 1 := by omega
  have hout : out.take (out.length + k) = out := List.take_of_length_le (Nat.le_add_right ..)
  simp [zeroFill, List.take_append, hzeros, hout]

/-- Settles O24: a push produces its result and then the survivors, which are all that DROP leaves. -/
theorem pushPutsTheResultOnTop : Obligations.PushPutsTheResultOnTop := by
  intro s a b op hc hover
  have hfits := producedLength_le_of_not_overflows hc hover
  refine ⟨_, _, exec_mk_of_ne_push a b op hc (by decide) (by decide), exec_mk_of_fits op (by decide) hfits, ?_, ?_⟩
  · rw [← length_produced .push a b 0 s.x] at hfits
    exact zeroFill_cons _ hfits
  · exact readSlot_zeroFill ..

/-- Settles O25: WRITE-PC commits the survivors that DROP commits; any other destination adds one to `pc`. -/
theorem writePcLoadsTheResult : Obligations.WritePcLoadsTheResult := by
  refine ⟨fun s a b op hc => ⟨_, exec_mk_of_ne_push a b op hc (by decide) (by decide), fun v => ?_⟩,
    fun s t i h hdest => ?_⟩
  · exact exec_mk_of_ne_push (s := { s with pc := v }) (d := .writePc) a b op hc (by decide) (by decide)
  · obtain ⟨hpc, _⟩ := exec_next_toNat h
    rw [hpc, nextPc, if_neg hdest, BitVec.toNat_add]
    simp

/-- A push leaves its result on top of the stack. -/
theorem exec_push_top {i : Instr} {s t : State} (h : exec i s = .next t) (hpush : i.dest = .push) :
    (readSlot t.x 0).toNat = t.res.toNat := by
  obtain ⟨_, _, _, hres, hslots⟩ := exec_next_toNat h
  rw [hslots, hres, hpush]
  rfl

/-- Settles O26: the next instruction reads the slot that the push has written. -/
theorem pushedResultIsReadNext : Obligations.PushedResultIsReadNext := by
  intro s t u i j _ hi hpush hj
  have htop := exec_push_top hi hpush
  obtain ⟨_, hvalA, hvalB, _⟩ := exec_next_toNat hj
  refine ⟨fun c ha => ?_, fun c hb => ?_⟩
  · rw [hvalA, ha]
    exact htop
  · rw [hvalB, hb]
    exact htop

end Sys2Proof.Machine

end

section

namespace Sys2Proof.Machine

/-! ### The scan loop (40_datapath.md R89) -/

/-- The loop appends the survivors to what it starts with. -/
theorem scanLoop_eq {n : Nat} (scanLen : Nat) {consumed : Nat → Bool} {ks : List Nat}
    (h : ∀ k, consumed k = ks.contains k) (x start : List (Word n)) :
    scanLoop scanLen consumed x start = start ++ survivors scanLen ks x := by
  obtain rfl : consumed = ks.contains := funext h
  induction scanLen with
  | zero => simp [scanLoop, survivors]
  | succ k ih =>
    rw [scanLoop, List.range_succ, List.foldl_append, ← scanLoop, ih]
    by_cases hk : k ∈ ks <;> simp [survivors, List.range_succ, hk, readSlot]

/-- Started with the pushed result, the loop gives the produced sequence. -/
theorem scanLoop_pushed {n : Nat} (scanLen : Nat) {consumed : Nat → Bool} (d : Dest) {a b : Selector} (r : Word n)
    (x : List (Word n)) (h : ∀ k, consumed k = (consumedSet a b).contains k) :
    scanLoop scanLen consumed x (if d = .push then [r] else []) = produced scanLen d a b r x :=
  scanLoop_eq scanLen h x _

/-- Settles O32: the loop gives the produced sequence, which the step fills with zeros. -/
theorem rebuildFollowsTheScanLoop : Obligations.RebuildFollowsTheScanLoop := by
  intro s d a b op hc hkind hover
  refine ⟨_, rfl, ?_⟩
  rw [scanLoop_pushed _ d _ s.x fun _ => rfl]
  exact exec_mk_of_fits op (d.isKind_iff.mp hkind) (producedLength_le_of_not_overflows hc hover)

end Sys2Proof.Machine

end

section

namespace Sys2Proof

/-! ### The destination field as a number (30_encoding.md R66) -/

theorem Dest.toNat_bits_eq_one (d : Dest) : d.bits.toNat = 1 ↔ d = .push := by cases d <;> decide
theorem Dest.toNat_bits_eq_two (d : Dest) : d.bits.toNat = 2 ↔ d = .writePc := by cases d <;> decide
theorem Dest.toNat_bits_eq_three (d : Dest) : d.bits.toNat = 3 ↔ d = .reserved := by cases d <;> decide

end Sys2Proof

namespace Sys2Proof.Machine

/-! ### The stages of the pseudocode (40_datapath.md R81) -/

theorem find?_cons_eq_ite {α : Type} (p : α → Bool) (v : α) (l : List α) :
    (v :: l).find? p = if p v then some v else l.find? p := by
  rw [List.find?_cons]
  cases p v <;> rfl

/-- The pseudocode and the decoder find the same operation, also under a map that is not injective. -/
theorem opNumbered_toNat (m : OpcodeMap) (c : BitVec 4) : opNumbered m c.toNat = m.lookup c := by
  have hnumber (v : BitVec 4) : (v.toNat == c.toNat) = true ↔ c = v := by
    rw [beq_iff_eq, BitVec.toNat_inj, eq_comm]
  simp only [opNumbered, find?_cons_eq_ite, List.find?_nil, hnumber, OpcodeMap.code, OpcodeMap.lookup]

theorem opNumbered_maskShift (m : OpcodeMap) (w : InstrWord) :
    opNumbered m (maskShift w 0xF000 12) = m.lookup (decodeFields w).opcode := by
  obtain ⟨hopcode, _⟩ := fieldsAreMaskAndShift w
  rw [maskShift, ← hopcode, opNumbered_toNat]

/-- Stage 1, the operand multiplexer. -/
theorem operandMux_eq {n : Nat} (x : List (Word n)) (sel : Selector) :
    (if sel.immFlag.toNat = 1 then BitVec.ofNat n sel.number.toNat else x.getD sel.number.toNat 0) =
      operandValue x sel := by
  cases sel with
  | imm _ v => exact BitVec.ofNat_toNat n v
  | slot _ k => rfl

/-- Stage 3, the next-state multiplexer of `pc`. -/
theorem pcMux_eq {n : Nat} (d : Dest) (result pc : Word n) :
    (if d = .writePc then result else BitVec.ofNat n ((pc.toNat + 1) % 2 ^ n)) = nextPc d result pc := by
  have hsucc : BitVec.ofNat n ((pc.toNat + 1) % 2 ^ n) = pc + 1 := by
    apply BitVec.eq_of_toNat_eq
    simp
  rw [hsucc, nextPc]

/-- Stage 4, the test whether a selector consumes a slot. -/
theorem consumeTest_eq (sel : Selector) (k : Nat) :
    (sel.immFlag.toNat == 0 && sel.consFlag.toNat == 1 && sel.number.toNat == k) = (consumedSlot sel).contains k := by
  cases sel with
  | imm _ v => rfl
  | slot c i =>
    cases c with
    | false => rfl
    | true => simp [consumedSlot, Selector.immFlag, Selector.consFlag, Selector.number, eq_comm, Bool.beq_eq_decide_eq]

/-- Stage 4, the membership test of `K`. -/
theorem memTest_eq (a b : Selector) (k : Nat) :
    ((a.immFlag.toNat == 0 && a.consFlag.toNat == 1 && a.number.toNat == k) ||
      (b.immFlag.toNat == 0 && b.consFlag.toNat == 1 && b.number.toNat == k)) = (consumedSet a b).contains k := by
  rw [consumeTest_eq, consumeTest_eq, Bool.eq_iff_iff, Bool.or_eq_true, List.contains_iff_mem, List.contains_iff_mem,
    List.contains_iff_mem, mem_consumedSet]

/-- Stage 4, placement and zero fill. -/
theorem placement_eq {n cap : Nat} {out : List (Word n)} (h : out.length ≤ cap) :
    (List.range cap).map (fun j => if j < out.length then out.getD j 0 else 0) = zeroFill cap out := by
  refine List.ext_getElem (by simp [h]) fun j _ hj => ?_
  rw [← readSlot_of_lt _ j hj, readSlot_zeroFill, List.getElem_map, List.getElem_range]
  split
  · rfl
  · next hout => exact (readSlot_of_length_le out j (not_lt.mp hout)).symm

/-- On a word that decodes, the pseudocode is the shared step with the instruction's parts and its formula. -/
theorem pseudocodeStep_of_decode {w : InstrWord} {s : State} {i : Instr} (h : decode s.cfg.opcodeMap w = .ok i) :
    pseudocodeStep w s = runAlu s w i.dest i.a i.b i.op.formula := by
  obtain ⟨op, hop, hi⟩ := decode_ok h
  obtain rfl : op = i.op := by rw [hi, Instr.mk_op]
  obtain ⟨_, hdest, hbImm, hbCons, hbVal, haImm, haCons, haVal⟩ := fieldsAreMaskAndShift w
  rw [← fields_of_decode h] at hdest hbImm hbCons hbVal haImm haCons haVal
  simp only [pseudocodeStep, opNumbered_maskShift, hop]
  simp only [maskShift, ← hdest, ← hbImm, ← hbCons, ← hbVal, ← haImm, ← haCons, ← haVal, Instr.fields,
    operandMux_eq, Dest.toNat_bits_eq_one, Dest.toNat_bits_eq_two, Dest.toNat_bits_eq_three, pcMux_eq,
    scanLoop_pushed _ _ _ _ (memTest_eq i.a i.b), runAlu, raiseFault]
  split_ifs with hreserved hover
  · rfl
  · rfl
  · rw [placement_eq (not_lt.mp hover), State.commit]

/-- Settles O43: without an operation both raise InvalidOpcode; with one, both are the shared step on the word itself. -/
theorem engineIsThePseudocode : Obligations.EngineIsThePseudocode := by
  intro w s
  rcases decode_cases s.cfg.opcodeMap w with ⟨hundefined, _⟩ | ⟨i, hdecode⟩
  · rw [engine_of_undefined hundefined]
    simp only [pseudocodeStep, opNumbered_maskShift, OpcodeMap.lookup_eq_none.mpr hundefined]
  · have hformula : aluOf (n := s.cfg.xlen) i.op = i.op.formula := by
      funext valueA valueB
      exact aluOf_eq_formula i.op valueA valueB
    rw [engine_of_decode hdecode, exec_eq_runAlu, everyDecodedWordEncodesBack _ w i hdecode, hformula,
      pseudocodeStep_of_decode hdecode]

end Sys2Proof.Machine

end

section

namespace Sys2Proof

/-! ### The bitwise truth tables (41_bitwise.md R100 to R103) -/

/-- The operation computes every result bit from the two operand bits of the same index, by a truth table. The shifts do
not: they move the bits of operand A (42_shift.md R110, R111). -/
def AluOp.ActsBitwise (op : AluOp) (table : Bool → Bool → Bool) : Prop :=
  ∀ (n : Nat) (a b : Word n) (i : Nat), i < n → (op.formula a b).getLsbD i = table (a.getLsbD i) (b.getLsbD i)

theorem AluOp.and_actsBitwise : AluOp.and.ActsBitwise Bool.and := fun _ _ _ _ _ => BitVec.getLsbD_and

theorem AluOp.or_actsBitwise : AluOp.or.ActsBitwise Bool.or := fun _ _ _ _ _ => BitVec.getLsbD_or

theorem AluOp.xor_actsBitwise : AluOp.xor.ActsBitwise Bool.xor := fun _ _ _ _ _ => BitVec.getLsbD_xor

/-- An operation with a symmetric truth table is commutative. -/
theorem AluOp.ActsBitwise.formula_comm {op : AluOp} {table : Bool → Bool → Bool} (h : op.ActsBitwise table)
    (hsymm : ∀ p q, table p q = table q p) {n : Nat} (a b : Word n) : op.formula a b = op.formula b a := by
  refine BitVec.eq_of_getLsbD_eq fun i hi => ?_
  rw [h n a b i hi, h n b a i hi, hsymm]

end Sys2Proof

namespace Sys2Proof.Machine

/-- A bitwise instruction that does not overflow completes, with the bits of its truth table and the closed
form of 40_datapath.md R93. -/
theorem exec_mk_of_actsBitwise {op : AluOp} {table : Bool → Bool → Bool} (h : op.ActsBitwise table) (s : State)
    (d : Dest) (a b : Selector) (hc : s.cfg.Admitted) (hkind : d.isKind = true) (hover : ¬ Overflows s.cfg d a b) :
    ∃ (r : Word s.cfg.xlen) (x' : List (Word s.cfg.xlen)),
      (∀ i < s.cfg.xlen, r.getLsbD i = table ((operandValue s.x a).getLsbD i) ((operandValue s.x b).getLsbD i)) ∧
      Rebuilt s.cfg d a b r s.x x' ∧ exec (Instr.mk op d a b) s = .next (s.after d a b r x') := by
  have hfits := producedLength_le_of_not_overflows hc hover
  exact ⟨_, _, h s.cfg.xlen _ _, rebuilt_zeroFill_produced hfits _ _,
    exec_mk_of_fits op (d.isKind_iff.mp hkind) hfits⟩

/-- Settles O16, by the truth table of AND. -/
theorem andCompletesWithItsResult : Obligations.AndCompletesWithItsResult :=
  exec_mk_of_actsBitwise AluOp.and_actsBitwise

/-- Settles O17, by the truth table of OR. -/
theorem orCompletesWithItsResult : Obligations.OrCompletesWithItsResult :=
  exec_mk_of_actsBitwise AluOp.or_actsBitwise

/-- Settles O18, by the truth table of XOR. -/
theorem xorCompletesWithItsResult : Obligations.XorCompletesWithItsResult :=
  exec_mk_of_actsBitwise AluOp.xor_actsBitwise

/-! ### Exchanging the selectors (41_bitwise.md R103) -/

/-- The rebuild consumes the slots of both selectors, whichever names them (40_datapath.md R88). -/
theorem produced_comm {n : Nat} (scanLen : Nat) (d : Dest) (a b : Selector) (r : Word n) (x : List (Word n)) :
    produced scanLen d b a r x = produced scanLen d a b r x := by
  have hmem (k : Nat) : (consumedSet b a).contains k = (consumedSet a b).contains k := by
    rw [Bool.eq_iff_iff, List.contains_iff_mem, List.contains_iff_mem, mem_consumedSet, mem_consumedSet, or_comm]
  simp only [produced, survivors, hmem]

theorem producedLength_comm (scanLen : Nat) (d : Dest) (a b : Selector) :
    producedLength scanLen d b a = producedLength scanLen d a b := by
  rw [← length_produced d b a (0 : Word 0) [], produced_comm, length_produced]

/-- With a symmetric truth table, exchanging the selectors exchanges the operand latches only. -/
theorem exec_mk_swap {op : AluOp} {table : Bool → Bool → Bool} (h : op.ActsBitwise table)
    (hsymm : ∀ p q, table p q = table q p) (s : State) {d : Dest} (a b : Selector) (hd : d ≠ .reserved) :
    exec (Instr.mk op d b a) s = mapNext State.swapLatches (exec (Instr.mk op d a b) s) := by
  have hlen := producedLength_comm s.cfg.scanLen d a b
  by_cases hfits : producedLength s.cfg.scanLen d a b ≤ s.cfg.stackCap
  · rw [exec_mk_of_fits op hd hfits, exec_mk_of_fits op hd (hlen.trans_le hfits), h.formula_comm hsymm, produced_comm]
    rfl
  · have hover := not_le.mp hfits
    rw [exec_of_overflow (i := Instr.mk op d a b) (by simpa using hd) (by simpa using hover),
      exec_of_overflow (i := Instr.mk op d b a) (by simpa using hd) (by simpa [hlen] using hover)]
    simp [mapNext, hlen]

/-- The result latch of a completed instruction holds the truth table of its operand latches. -/
theorem res_getLsbD_of_exec_mk {op : AluOp} {table : Bool → Bool → Bool} (h : op.ActsBitwise table) {s t : State}
    {d : Dest} {a b : Selector} (hnext : exec (Instr.mk op d a b) s = .next t) {i : Nat} (hi : i < s.cfg.xlen) :
    t.res.getLsbD i = table (t.valA.getLsbD i) (t.valB.getLsbD i) := by
  obtain ⟨hlatches, _⟩ := latchesTakeOperandsAndResult
  obtain ⟨hvalA, hvalB, hres⟩ := hlatches s t _ hnext
  rw [Instr.mk_op] at hres
  rw [← BitVec.testBit_toNat, ← BitVec.testBit_toNat, ← BitVec.testBit_toNat, hvalA, hvalB, hres]
  exact h s.cfg.xlen _ _ i hi

/-- Settles O27: the three truth tables are symmetric, so the formulas are, and the rebuild is symmetric anyway. -/
theorem bitwiseOperandsCommute : Obligations.BitwiseOperandsCommute := by
  refine ⟨fun s d a b hkind => ?_, fun s t d a b i hi => ⟨fun h => ?_, fun h => ?_, fun h => ?_⟩⟩
  · have hd := d.isKind_iff.mp hkind
    exact ⟨exec_mk_swap AluOp.and_actsBitwise Bool.and_comm s a b hd,
      exec_mk_swap AluOp.or_actsBitwise Bool.or_comm s a b hd,
      exec_mk_swap AluOp.xor_actsBitwise Bool.xor_comm s a b hd⟩
  · exact res_getLsbD_of_exec_mk AluOp.and_actsBitwise h hi
  · exact res_getLsbD_of_exec_mk AluOp.or_actsBitwise h hi
  · exact res_getLsbD_of_exec_mk AluOp.xor_actsBitwise h hi

end Sys2Proof.Machine

end

section

namespace Sys2Proof

/-! ### The shifts bit by bit and as integers (42_shift.md R110 to R113) -/

/-- The fill-ones value of R110 on integers is the shifted operand with ones in the low bits (42_shift.md R113). -/
theorem fillOnes_eq_or (v k : Nat) : (v + 1) * 2 ^ k - 1 = v * 2 ^ k ||| (2 ^ k - 1) := by
  have hpos := Nat.two_pow_pos k
  calc (v + 1) * 2 ^ k - 1 = 2 ^ k * v + (2 ^ k - 1) := by
        rw [add_one_mul, mul_comm, Nat.add_sub_assoc hpos]
    _ = v * 2 ^ k ||| (2 ^ k - 1) := by
        rw [Nat.two_pow_add_eq_or_of_lt (Nat.sub_lt hpos one_pos), mul_comm]

/-- The operation moves operand A up by the amount and puts the bit `fill` below it. The bitwise operations do not: they
have a truth table (`AluOp.ActsBitwise`). -/
def AluOp.ShiftsIn (op : AluOp) (fill : Bool) : Prop :=
  ∀ (n : Nat) (a b : Word n) (i : Nat), i < n →
    (op.formula a b).getLsbD i = if i < b.toNat then fill else a.getLsbD (i - b.toNat)

theorem AluOp.slz_shiftsIn : AluOp.slz.ShiftsIn false := by
  intro n a b i hi
  rw [AluOp.formula, BitVec.getLsbD_ofNat, Nat.testBit_mul_two_pow, BitVec.testBit_toNat]
  by_cases hlow : i < b.toNat
  · simp [hlow]
  · simp [hi, hlow, not_lt.mp hlow]

theorem AluOp.slo_shiftsIn : AluOp.slo.ShiftsIn true := by
  intro n a b i hi
  have hslz : (BitVec.ofNat n (a.toNat * 2 ^ b.toNat)).getLsbD i =
    if i < b.toNat then false else a.getLsbD (i - b.toNat) := AluOp.slz_shiftsIn n a b i hi
  have hones : (BitVec.ofNat n (2 ^ b.toNat - 1)).getLsbD i = decide (i < b.toNat) := by
    rw [BitVec.getLsbD_ofNat, Nat.testBit_two_pow_sub_one, decide_eq_true hi, Bool.true_and]
  rw [AluOp.formula, fillOnes_eq_or, BitVec.ofNat_or, BitVec.getLsbD_or, hslz, hones]
  by_cases hlow : i < b.toNat <;> simp [hlow]

end Sys2Proof

namespace Sys2Proof.Machine

/-- An instruction that does not overflow completes with its formula as the result and the closed form of
40_datapath.md R93 as its stack. -/
theorem exec_mk_rebuilt (op : AluOp) (s : State) (d : Dest) (a b : Selector) (hc : s.cfg.Admitted)
    (hkind : d.isKind = true) (hover : ¬ Overflows s.cfg d a b) :
    ∃ x', Rebuilt s.cfg d a b (op.formula (operandValue s.x a) (operandValue s.x b)) s.x x' ∧
      exec (Instr.mk op d a b) s = .next (s.after d a b (op.formula (operandValue s.x a) (operandValue s.x b)) x') := by
  have hfits := producedLength_le_of_not_overflows hc hover
  exact ⟨_, rebuilt_zeroFill_produced hfits _ _, exec_mk_of_fits op (d.isKind_iff.mp hkind) hfits⟩

/-- A shift that does not overflow completes, with the bits of operand A moved up over its fill. -/
theorem exec_mk_of_shiftsIn {op : AluOp} {fill : Bool} (h : op.ShiftsIn fill) (s : State) (d : Dest) (a b : Selector)
    (hc : s.cfg.Admitted) (hkind : d.isKind = true) (hover : ¬ Overflows s.cfg d a b) :
    ∃ (r : Word s.cfg.xlen) (x' : List (Word s.cfg.xlen)),
      (∀ i < s.cfg.xlen, r.getLsbD i =
        if i < (operandValue s.x b).toNat then fill
        else (operandValue s.x a).getLsbD (i - (operandValue s.x b).toNat)) ∧
      Rebuilt s.cfg d a b r s.x x' ∧ exec (Instr.mk op d a b) s = .next (s.after d a b r x') := by
  obtain ⟨x', hrebuilt, hexec⟩ := exec_mk_rebuilt op s d a b hc hkind hover
  exact ⟨_, x', h s.cfg.xlen _ _, hrebuilt, hexec⟩

/-- Settles O19, by the bits of the fill-ones shift. -/
theorem sloCompletesWithItsResult : Obligations.SloCompletesWithItsResult :=
  exec_mk_of_shiftsIn AluOp.slo_shiftsIn

/-- Settles O20, by the bits of the fill-zeros shift. -/
theorem slzCompletesWithItsResult : Obligations.SlzCompletesWithItsResult :=
  exec_mk_of_shiftsIn AluOp.slz_shiftsIn

/-- Settles O30: at such an amount the two formulas are constant. -/
theorem largeShiftAmountsAreNotMasked : Obligations.LargeShiftAmountsAreNotMasked := by
  intro s d a b hc hkind hover hlarge
  rw [← formula_slz_of_le (operandValue s.x a) _ hlarge, ← formula_slo_of_le (operandValue s.x a) _ hlarge]
  exact ⟨exec_mk_rebuilt .slz s d a b hc hkind hover, exec_mk_rebuilt .slo s d a b hc hkind hover⟩

/-! ### The identities between the shifts (42_shift.md R113) -/

theorem aluSlo_eq {n : Nat} (a b : Word n) : aluSlo a b = BitVec.ofNat n ((a.toNat + 1) * 2 ^ b.toNat - 1) :=
  aluOf_eq_formula .slo a b

theorem aluSlz_eq {n : Nat} (a b : Word n) : aluSlz a b = BitVec.ofNat n (a.toNat * 2 ^ b.toNat) :=
  aluOf_eq_formula .slz a b

theorem aluSlo_eq_ofNat_or {n : Nat} (a b : Word n) :
    aluSlo a b = BitVec.ofNat n (a.toNat * 2 ^ b.toNat ||| (2 ^ b.toNat - 1)) := by
  rw [aluSlo_eq, fillOnes_eq_or]

theorem aluSlo_zero {n : Nat} (b : Word n) : aluSlo 0 b = BitVec.ofNat n (2 ^ b.toNat - 1) := by
  simp [aluSlo_eq]

/-- A product reduced modulo 2^n does not see whether its factor `valueA + 1` was reduced before. -/
theorem aluSlo_eq_wrapped_succ {n : Nat} (a b : Word n) :
    aluSlo a b = BitVec.ofNat n ((a + 1).toNat * 2 ^ b.toNat) - 1 := by
  have hpos : 0 < (a.toNat + 1) * 2 ^ b.toNat := Nat.mul_pos a.toNat.succ_pos (Nat.two_pow_pos _)
  have hsucc : BitVec.ofNat n (a + 1).toNat = BitVec.ofNat n (a.toNat + 1) := by
    apply BitVec.eq_of_toNat_eq
    simp
  have hpred : BitVec.ofNat n ((a.toNat + 1) * 2 ^ b.toNat - 1) + 1 = BitVec.ofNat n ((a.toNat + 1) * 2 ^ b.toNat) :=
    (BitVec.ofNat_add _ 1).symm.trans (congrArg _ (Nat.sub_add_cancel hpos))
  calc aluSlo a b = BitVec.ofNat n ((a.toNat + 1) * 2 ^ b.toNat) - 1 :=
        (aluSlo_eq a b).trans (eq_sub_of_add_eq hpred)
    _ = BitVec.ofNat n ((a + 1).toNat * 2 ^ b.toNat) - 1 := by
        rw [BitVec.ofNat_mul, BitVec.ofNat_mul, hsucc]

/-- Settles O29, from the integer formulas: the low ones do not meet the shifted operand. -/
theorem shiftIdentities : Obligations.ShiftIdentities := by
  intro n a b
  refine ⟨?_, aluSlo_eq a b, aluSlo_eq_wrapped_succ a b, aluSlo_eq_ofNat_or a b, aluSlz_eq a b⟩
  rw [aluSlo_eq_ofNat_or, aluSlz_eq, aluSlo_zero, BitVec.ofNat_or]

end Sys2Proof.Machine

end

section

namespace Sys2Proof

/-- The destination of a decoded instruction is the reserved one exactly for field value 3 (30_encoding.md R66, R71). -/
theorem dest_eq_reserved_iff_of_decode {m : OpcodeMap} {w : InstrWord} {i : Instr} (h : decode m w = .ok i) :
    i.dest = .reserved ↔ (decodeFields w).dest = 3 := by
  rw [← i.dest.toNat_bits_eq_three, ← fields_of_decode h]
  exact BitVec.toNat_inj (y := 3)

end Sys2Proof

namespace Sys2Proof.Machine

/-! ### Which fault an instruction raises (60_exceptions.md R122, R123, R124) -/

/-- Settles O36: the destination is tested before anything else. -/
theorem reservedDestinationStops : Obligations.ReservedDestinationStops := by
  intro s i hd
  rw [exec_eq_runAlu]
  rcases runAlu_cases s (encode s.cfg.opcodeMap i) i.dest i.a i.b (aluOf i.op) with ⟨_, e⟩ | ⟨hkind, _⟩ | ⟨hkind, _⟩
  · exact e
  · exact absurd hd hkind
  · exact absurd hd hkind

/-- An overflowing rebuild is one entry too long, never more (60_exceptions.md R123). -/
theorem producedLength_of_overflows {c : Config} {d : Dest} {a b : Selector} (hc : c.Admitted)
    (h : Overflows c d a b) : producedLength c.scanLen d a b = c.stackCap + 1 := by
  have hover := (stackCap_lt_producedLength_iff hc d a b).mpr h
  have hlen := producedLength_le_succ c.scanLen d a b
  obtain ⟨hscan, _, _⟩ := h
  omega

theorem exec_of_overflows {i : Instr} {s : State} (hc : s.cfg.Admitted) (h : Overflows s.cfg i.dest i.a i.b) :
    exec i s = .fault (.stackOverflow (s.cfg.stackCap + 1)) := by
  have hlen := producedLength_of_overflows hc h
  obtain ⟨_, hpush, _⟩ := h
  have hkind : i.dest ≠ .reserved := by simp [hpush]
  rw [exec_of_overflow hkind (by omega), hlen]

/-- Settles O37, in the order of the tests: the opcode, the destination, the length of the rebuild. -/
theorem faultPriority : Obligations.FaultPriority := by
  intro s w hc
  refine ⟨engine_of_undefined, fun i hdecode => ?_⟩
  have hreserved := dest_eq_reserved_iff_of_decode hdecode
  rw [engine_of_decode hdecode]
  refine ⟨fun hdest => ?_, fun _ hover => exec_of_overflows hc hover, fun hdest hfits => ?_⟩
  · rw [reservedDestinationStops s i (hreserved.mpr hdest), everyDecodedWordEncodesBack _ w i hdecode]
  · rw [← i.mk_parts]
    exact ⟨_, exec_mk_of_fits i.op (mt hreserved.mp hdest) (producedLength_le_of_not_overflows hc hfits)⟩

/-! ### Where StackOverflow can be reached (60_exceptions.md R123) -/

/-- StackOverflow needs a scan range as long as the stack, whatever the word. -/
theorem engine_ne_stackOverflow {s : State} (hscan : s.cfg.scanLen < s.cfg.stackCap) (w : InstrWord) (k : Nat) :
    engine w s ≠ .fault (.stackOverflow k) := by
  rcases decode_cases s.cfg.opcodeMap w with ⟨_, hreject⟩ | ⟨i, hdecode⟩
  · simp [engine_of_reject hreject]
  · rw [engine_of_decode hdecode]
    intro hfault
    have hover := exec_stackOverflow hfault
    have hlen := producedLength_le_succ s.cfg.scanLen i.dest i.a i.b
    omega

/-- A faulting feed is a fault of the engine. -/
theorem engine_of_feedWord_fault {w : InstrWord} {s : State} {f : Fault} (h : feedWord w s = .fault f) :
    engine w s = .fault f := by
  cases he : engine w s with
  | next t => simp [feedWord, he] at h
  | fault g => simpa [feedWord, he] using h
  | refused r => simp [feedWord, he] at h

/-- A faulting step is a word of the environment on which the engine faults. -/
theorem step_fault {s : State} {f : Fault} (h : step s = .fault f) : ∃ w, s.fetch = some w ∧ engine w s = .fault f := by
  have hclear : s.fault = .none := by
    by_contra hlatched
    simp [step_of_fault hlatched] at h
  rw [step_of_fault_none hclear] at h
  cases hw : s.fetch with
  | none => simp [hw] at h
  | some w => exact ⟨w, rfl, engine_of_feedWord_fault (by simpa [hw] using h)⟩

/-- A run that ends with a fault comes to a state whose step raises it. -/
theorem runSteps_fault {n : Nat} {s : State} {f : Fault} (h : runSteps n s = .fault f) :
    ∃ m t, runSteps m s = .next t ∧ step t = .fault f := by
  have hrefines := clockedMachineRefinesTheRun n s
  rw [h] at hrefines
  obtain ⟨m, _, t, hrun, hstep, _⟩ := hrefines
  exact ⟨m, t, hrun, hstep⟩

theorem runSteps_next_cfg {n : Nat} {s t : State} (h : runSteps n s = .next t) : t.cfg = s.cfg :=
  run_keeps (P := fun u => u.cfg = s.cfg) (fun _ _ hcfg hstep => (step_next_cfg hstep).trans hcfg) n s t rfl h

/-- Settles O39: a run keeps the parameters up to its faulting step, where the engine would have to overflow; and a push
that consumes nothing in a scan range as long as the stack is the overflowing case. -/
theorem overflowReachability : Obligations.OverflowReachability := by
  refine ⟨fun n s k _ hscan hrun => ?_, fun s i hc hscan hpush hnone => ?_⟩
  · obtain ⟨m, t, hbefore, hstep⟩ := runSteps_fault hrun
    obtain ⟨w, _, hfault⟩ := step_fault hstep
    rw [← runSteps_next_cfg hbefore] at hscan
    exact engine_ne_stackOverflow hscan w k hfault
  · have hkept : ∀ k ∈ consumedSet i.a i.b, s.cfg.scanLen ≤ k := by simpa [consumedInScan] using hnone
    exact ⟨_, Nat.lt_succ_self _, exec_of_overflows hc ⟨hscan, hpush, hkept⟩⟩

end Sys2Proof.Machine

end

section

namespace Sys2Proof.Machine

/-! ### A step and the word it takes (70_reset_and_hazards.md R143, R145 to R147) -/

/-- Feeding a word is the engine with the step number moved on after a success. -/
theorem feedWord_eq_mapNext (w : InstrWord) (s : State) : feedWord w s = mapNext State.countStep (engine w s) := by
  cases h : engine w s <;> simp [feedWord, mapNext, h]

/-- With the latch clear and a word at hand, a step is the feed of that word. -/
theorem step_of_fetch {s : State} {w : InstrWord} (hclear : s.fault = .none) (hword : s.fetch = some w) :
    step s = feedWord w s := by
  rw [step_of_fault_none hclear, hword]

/-- With the latch clear and no word left, the run is over (70_reset_and_hazards.md R147). -/
theorem step_of_no_word {s : State} (hclear : s.fault = .none) (hword : s.fetch = none) :
    step s = .refused .runOver := by
  rw [step_of_fault_none hclear, hword]

/-- The fetched word stands at the fetch position, in either environment (70_reset_and_hazards.md R145, R146). -/
theorem fetch_eq_getElem?_fetchPosition (s : State) : s.fetch = s.program[s.fetchPosition]? := by
  cases h : s.cfg.envFetch <;> simp [State.fetch, State.fetchPosition, h]

/-- Settles O3: the step feeds the fetched word, on which the engine is the decoded instruction. -/
theorem stepRunsTheDecodedInstruction : Obligations.StepRunsTheDecodedInstruction := by
  intro s w i hclear hword hdecode
  rw [step_of_fetch hclear hword, feedWord_eq_mapNext, engine_of_decode hdecode]
  rfl

/-- Settles O5: in this environment the fetched word is the program's entry at `pc`, and there is none from N on. -/
theorem pcIndexedSupplyFollowsThePc : Obligations.PcIndexedSupplyFollowsThePc := by
  intro s henv hclear
  have hfetch := fetch_pcIndexed henv
  refine ⟨fun hpc => step_of_fetch hclear ?_, fun hpc => step_of_no_word hclear ?_⟩
  · rw [hfetch, List.getElem?_eq_getElem hpc]
  · rw [hfetch, List.getElem?_eq_none hpc]

/-- A word placed at a position stands there, however long the list was. -/
theorem getElem?_placeWord (p : List InstrWord) (k : Nat) (w : InstrWord) : (placeWord p k w)[k]? = some w := by
  have hlen : (p.take k ++ List.replicate (k - p.length) (0 : InstrWord)).length = k := by
    rw [List.length_append, List.length_take, List.length_replicate]
    omega
  rw [placeWord, List.getElem?_append_right hlen.le, hlen, Nat.sub_self]
  rfl

/-- The word loaded is the word fetched: loading does not move the fetch position. -/
theorem fetch_withFetchWord (s : State) (nbits w : Nat) :
    (s.withFetchWord nbits w).fetch = some (BitVec.ofNat 16 (w % 2 ^ nbits)) := by
  rw [fetch_eq_getElem?_fetchPosition, State.withFetchWord_program]
  exact getElem?_placeWord s.program s.fetchPosition _

/-- Settles O7: the loaded word is fetched and the latch is clear, so it is fed. -/
theorem loadedWordIsTheNextWord : Obligations.LoadedWordIsTheNextWord := fun s nbits w =>
  have hword := fetch_withFetchWord s nbits w
  ⟨hword, step_of_fetch (s.withFetchWord_fault nbits w) hword, _, rfl⟩

end Sys2Proof.Machine

end

section

namespace Sys2Proof

/-- The destination of a decoded instruction is WRITE-PC exactly for field value 2 (30_encoding.md R66). -/
theorem dest_eq_writePc_iff_of_decode {m : OpcodeMap} {w : InstrWord} {i : Instr} (h : decode m w = .ok i) :
    i.dest = .writePc ↔ (decodeFields w).dest = 2 := by
  rw [← i.dest.toNat_bits_eq_two, ← fields_of_decode h]
  exact BitVec.toNat_inj (y := 2)

end Sys2Proof

namespace Sys2Proof.Machine

/-! ### The sequential supply (70_reset_and_hazards.md R145, R147) -/

/-- What a step does to the environment: the program stays, the step number moves on, the latch stays clear. -/
theorem step_next_environment {s t : State} (h : step s = .next t) :
    t.program = s.program ∧ t.stepNo = s.stepNo + 1 ∧ t.fault = .none := by
  obtain ⟨_, hstep⟩ := environmentIsOutOfReach
  obtain ⟨_, hprogram, hstepNo, _, hclear⟩ := hstep s t h
  exact ⟨hprogram, hstepNo, hclear⟩

theorem step_next_program {s t : State} (h : step s = .next t) : t.program = s.program := by
  obtain ⟨hprogram, _, _⟩ := step_next_environment h
  exact hprogram

theorem runSteps_next_program {n : Nat} {s t : State} (h : runSteps n s = .next t) : t.program = s.program :=
  run_keeps (P := fun u => u.program = s.program)
    (fun _ _ hprogram hstep => (step_next_program hstep).trans hprogram) n s t rfl h

/-- The step number counts the steps of a run. -/
theorem runSteps_next_stepNo {n : Nat} {s t : State} (h : runSteps n s = .next t) : t.stepNo = s.stepNo + n := by
  induction n generalizing s with
  | zero => cases h; rfl
  | succ n ih =>
    obtain ⟨u, hstep, hrest⟩ := run_succ_next h
    obtain ⟨_, hstepNo, _⟩ := step_next_environment hstep
    rw [ih hrest, hstepNo]
    omega

/-- `pc` is the step number, modulo 2^XLEN. -/
def State.PcCountsSteps (s : State) : Prop := s.pc.toNat = s.stepNo % 2 ^ s.cfg.xlen

theorem launch_pcCountsSteps (c : Config) (p : List InstrWord) : (State.launch c p).PcCountsSteps := by
  simp [State.PcCountsSteps]

/-- A step whose word does not write `pc` moves `pc` and the step number on alike (40_datapath.md R87). -/
theorem step_next_pcCountsSteps {s t : State} (hseq : s.cfg.envFetch = .sequential)
    (hwords : ∀ w ∈ s.program, (decodeFields w).dest ≠ 2) (hs : s.PcCountsSteps) (h : step s = .next t) :
    t.PcCountsSteps := by
  obtain ⟨_, w, i, u, hword, hdecode, hexec, rfl⟩ := step_next h
  rw [fetch_sequential hseq] at hword
  have hdest : i.dest ≠ .writePc :=
    mt (dest_eq_writePc_iff_of_decode hdecode).mp (hwords w (List.mem_of_getElem? hword))
  obtain ⟨_, hadvance⟩ := writePcLoadsTheResult
  obtain ⟨_, hstepNo, _⟩ := exec_next_environment hexec
  rw [State.PcCountsSteps] at hs
  calc u.pc.toNat = (s.pc.toNat + 1) % 2 ^ s.cfg.xlen := hadvance s u i hexec hdest
    _ = (s.stepNo + 1) % 2 ^ s.cfg.xlen := by rw [hs, Nat.mod_add_mod]
    _ = (u.stepNo + 1) % 2 ^ u.cfg.xlen := by rw [hstepNo, exec_next_cfg hexec]

/-- Settles O4: a run keeps the program and the parameters and counts its steps, and `pc` counts them too as long as no
word writes it. -/
theorem sequentialSupplyFollowsTheProgram : Obligations.SequentialSupplyFollowsTheProgram := by
  refine ⟨fun k s t hseq hrun => ?_, fun k c p t hseq hwords hrun => ?_⟩
  · have hstepNo := runSteps_next_stepNo hrun
    refine ⟨hstepNo, ?_⟩
    rw [fetch_sequential (by rwa [runSteps_next_cfg hrun]), runSteps_next_program hrun, hstepNo]
  · have hkeeps : ∀ s u : State, s.cfg = c ∧ s.program = p ∧ s.PcCountsSteps → step s = .next u →
        u.cfg = c ∧ u.program = p ∧ u.PcCountsSteps := by
      rintro s u ⟨rfl, rfl, hcount⟩ hstep
      exact ⟨step_next_cfg hstep, step_next_program hstep, step_next_pcCountsSteps hseq hwords hcount hstep⟩
    obtain ⟨rfl, _, hcount⟩ := run_keeps hkeeps k _ t ⟨rfl, rfl, launch_pcCountsSteps c p⟩ hrun
    rw [hcount, runSteps_next_stepNo hrun, State.launch_stepNo, Nat.zero_add]

/-- A running machine in the sequential environment whose words all complete: the latch is clear, no push overflows, and
every word of the program is legal. -/
structure State.RunsLegalWords (s : State) : Prop where
  scan : s.cfg.scanLen < s.cfg.stackCap
  sequential : s.cfg.envFetch = .sequential
  clear : s.fault = .none
  legal : ∀ w ∈ s.program, LegalWord s.cfg.opcodeMap w

theorem State.RunsLegalWords.step_next {s t : State} (hs : s.RunsLegalWords) (h : step s = .next t) :
    t.RunsLegalWords := by
  obtain ⟨hscan, hseq, _, hlegal⟩ := hs
  obtain ⟨hprogram, _, hclear⟩ := step_next_environment h
  rw [← step_next_cfg h] at hscan hseq hlegal
  exact ⟨hscan, hseq, hclear, by rwa [hprogram]⟩

/-- As long as a word is left, a step is taken and succeeds. -/
theorem State.RunsLegalWords.exists_step_next {s : State} (hs : s.RunsLegalWords)
    (hleft : s.stepNo < s.program.length) : ∃ t, step s = .next t := by
  have hword : s.fetch = some s.program[s.stepNo] := by
    rw [fetch_sequential hs.sequential, List.getElem?_eq_getElem hleft]
  obtain ⟨t, ht⟩ := (engine_next_iff hs.scan _).mpr (hs.legal _ (List.getElem_mem hleft))
  refine ⟨t.countStep, ?_⟩
  rw [step_of_fetch hs.clear hword, feedWord_eq_mapNext, ht]
  rfl

/-- As many steps as there are words left are taken, and all succeed (70_reset_and_hazards.md R147). -/
theorem State.RunsLegalWords.exists_runSteps_next {s : State} (hs : s.RunsLegalWords) {n : Nat}
    (hleft : s.stepNo + n ≤ s.program.length) : ∃ t, runSteps n s = .next t ∧ t.RunsLegalWords := by
  induction n generalizing s with
  | zero => exact ⟨s, rfl, hs⟩
  | succ n ih =>
    obtain ⟨u, hstep⟩ := hs.exists_step_next (by omega)
    obtain ⟨hprogram, hstepNo, _⟩ := step_next_environment hstep
    rw [runSteps_of_next hstep]
    exact ih (hs.step_next hstep) (by rw [hprogram, hstepNo]; omega)

/-- Settles O6: the steps that are left all succeed, and then the step number is the program's length. -/
theorem sequentialRunEndsAfterItsLastWord : Obligations.SequentialRunEndsAfterItsLastWord := by
  intro s _ hscan hseq hclear hle hlegal
  have hs : s.RunsLegalWords := ⟨hscan, hseq, hclear, hlegal⟩
  obtain ⟨t, hrun, ht⟩ := hs.exists_runSteps_next (n := s.program.length - s.stepNo) (by omega)
  have hend : t.stepNo = s.program.length := by
    rw [runSteps_next_stepNo hrun]
    omega
  refine ⟨t, hrun, hend, step_of_no_word ht.clear ?_⟩
  rw [fetch_sequential ht.sequential, runSteps_next_program hrun, List.getElem?_eq_none hend.ge]

end Sys2Proof.Machine

end

section

namespace Sys2Proof.Machine

/-! ### What the sequential environment does not read of `pc` (10_state.md R25) -/

section mapNext
variable {f : State → State} {o : Host.Outcome State Fault Refusal}

theorem mapNext_eq_next_iff {t : State} : mapNext f o = .next t ↔ ∃ u, o = .next u ∧ f u = t := by
  cases o <;> simp [mapNext]

theorem mapNext_eq_fault_iff {e : Fault} : mapNext f o = .fault e ↔ o = .fault e := by
  cases o <;> simp [mapNext]

theorem mapNext_eq_refused_iff {r : Refusal} : mapNext f o = .refused r ↔ o = .refused r := by
  cases o <;> simp [mapNext]

end mapNext

/-- An instruction reads `pc` only to make the next one (40_datapath.md R87): both tests of the shared step, and all it
commits but `pc`, are the same without it. -/
theorem exec_forgetPc (i : Instr) (s : State) :
    mapNext State.forgetPc (exec i s.forgetPc) = mapNext State.forgetPc (exec i s) := by
  rw [exec_eq_runAlu, exec_eq_runAlu]
  simp only [runAlu, apply_ite (mapNext State.forgetPc)]
  rfl

theorem engine_forgetPc (w : InstrWord) (s : State) :
    mapNext State.forgetPc (engine w s.forgetPc) = mapNext State.forgetPc (engine w s) := by
  rcases decode_cases s.cfg.opcodeMap w with ⟨_, hreject⟩ | ⟨i, hdecode⟩
  · rw [engine_of_reject hreject, engine_of_reject (s := s.forgetPc) hreject]
  · rw [engine_of_decode hdecode, engine_of_decode (s := s.forgetPc) hdecode]
    exact exec_forgetPc i s

/-- Counting the step and forgetting `pc` touch different fields. -/
theorem mapNext_forgetPc_countStep (o : Host.Outcome State Fault Refusal) :
    mapNext State.forgetPc (mapNext State.countStep o) = mapNext State.countStep (mapNext State.forgetPc o) := by
  cases o <;> rfl

theorem feedWord_forgetPc (w : InstrWord) (s : State) :
    mapNext State.forgetPc (feedWord w s.forgetPc) = mapNext State.forgetPc (feedWord w s) := by
  simp only [feedWord_eq_mapNext, mapNext_forgetPc_countStep, engine_forgetPc]

theorem fetch_forgetPc {s : State} (hseq : s.cfg.envFetch = .sequential) : s.forgetPc.fetch = s.fetch :=
  (fetch_sequential (s := s.forgetPc) hseq).trans (fetch_sequential hseq).symm

/-- In the sequential environment `pc` decides neither whether a step is taken nor which word it takes. -/
theorem step_forgetPc {s : State} (hseq : s.cfg.envFetch = .sequential) :
    mapNext State.forgetPc (step s.forgetPc) = mapNext State.forgetPc (step s) := by
  by_cases hclear : s.fault = .none
  · have hfetch := fetch_forgetPc hseq
    cases hword : s.fetch with
    | none => rw [step_of_no_word hclear hword, step_of_no_word (s := s.forgetPc) hclear (hfetch.trans hword)]
    | some w =>
      rw [step_of_fetch hclear hword, step_of_fetch (s := s.forgetPc) hclear (hfetch.trans hword)]
      exact feedWord_forgetPc w s
  · rw [step_of_fault hclear, step_of_fault (s := s.forgetPc) hclear]
    rfl

/-- Two runs whose states differ in `pc` alone stay so, step by step. -/
theorem runSteps_forgetPc {s : State} (hseq : s.cfg.envFetch = .sequential) (n : Nat) :
    mapNext State.forgetPc (runSteps n s.forgetPc) = mapNext State.forgetPc (runSteps n s) := by
  induction n generalizing s with
  | zero => rfl
  | succ n ih =>
    have hstep := step_forgetPc hseq
    cases hs : step s with
    | next t =>
      obtain ⟨t', hs', hforget⟩ := mapNext_eq_next_iff.mp (hstep.trans (congrArg _ hs))
      have ht := ih (s := t) (by rwa [step_next_cfg hs])
      have ht' := ih (s := t') (by rwa [step_next_cfg hs'])
      rw [runSteps_of_next hs, runSteps_of_next hs', ← ht', hforget, ht]
    | fault f =>
      have hs' := mapNext_eq_fault_iff.mp (hstep.trans (congrArg _ hs))
      rw [runSteps_of_fault hs, runSteps_of_fault hs']
    | refused r =>
      have hs' := mapNext_eq_refused_iff.mp (hstep.trans (congrArg _ hs))
      rw [runSteps_of_refused hs, runSteps_of_refused hs']

/-- Settles O49: two states that differ only in `pc` are one state once `pc` is forgotten. -/
theorem pcIsInvisibleToSequentialRuns : Obligations.PcIsInvisibleToSequentialRuns := by
  intro n s v hseq
  exact (runSteps_forgetPc (s := { s with pc := v }) hseq n).symm.trans (runSteps_forgetPc hseq n)

end Sys2Proof.Machine

end

section

namespace Sys2Proof.Machine

/-! ### The driver's enable (70_reset_and_hazards.md R147) -/

/-- A word that is fed is never refused. -/
theorem feedWord_ne_refused (w : InstrWord) (s : State) (r : Refusal) : feedWord w s ≠ .refused r := by
  rw [feedWord_eq_mapNext]
  cases h : engine w s with
  | next t => simp [mapNext]
  | fault f => simp [mapNext]
  | refused q => exact absurd h (engine_ne_refused w s q)

/-- The driver leaves `en` at 0 exactly where no step is taken. -/
theorem driverPorts_en_eq_false_iff (s : State) : s.driverPorts.en = false ↔ ∃ r, step s = .refused r := by
  by_cases hclear : s.fault = .none
  · cases hword : s.fetch with
    | none => simp [driverPorts_of_no_word hword, idlePorts, step_of_no_word hclear hword]
    | some w => simp [driverPorts_of_fetch hclear hword, step_of_fetch hclear hword, feedWord_ne_refused]
  · simp [driverPorts_of_fault hclear, idlePorts, step_of_fault hclear]

/-- Settles O50: where no step is taken the edges keep the state and so `en`; a faulting edge leads to such a state. -/
theorem enableStaysLowAfterTheEnd : Obligations.EnableStaysLowAfterTheEnd := by
  refine ⟨fun s w => driverPorts_of_fetch, driverPorts_en_eq_false_iff, fun s r n hend => ?_, fun s f n hfault => ?_⟩
  · rw [ticks_of_refused hend n]
    exact ⟨rfl, (driverPorts_en_eq_false_iff s).mpr ⟨r, hend⟩⟩
  · rw [ticks_of_fault hfault n]
    exact ⟨rfl, congrArg Ports.en (driverPorts_of_fault f.code_ne_none)⟩

end Sys2Proof.Machine

end
